-- ==== Sys2Proof/Word.lean ====
section
/-! DEFINITION. The word types of the block: the 8-bit byte of rule R11 (00_scope.md) and the 24-bit descriptor ROM
word of rule R65 (30_encoding.md). -/

namespace Sys2Proof

/-- A byte: "an unsigned integer 0..255", bit 7 most significant, bit 0 least (R11). -/
abbrev Byte := BitVec 8

/-- A packed descriptor ROM word: 24 bits (R65). -/
abbrev RomWord := BitVec 24

end Sys2Proof
end

