-- ==== Sys2Proof/Config.lean ====
section
/-! DEFINITION. What is fixed for one machine and never written: the constants of rules R5, R6, R7 and R9
(00_scope.md), the extractor's constant of R161 (44_env_extractor.md), and the values the spec leaves open, as
constants without a body (R7, R8 and R136 for the tables, R32 for the frame buffer after reset). -/

namespace Sys2Proof

/-- `SYNC = 0x7E`: each of the two synchronisation bytes (R5). -/
def Config.sync : Byte := 0x7E#8

/-- `CMD_SET = 0x01` (R5). -/
def Config.cmdSet : Byte := 0x01#8

/-- `CMD_REPORT = 0x31` (R5). The decoder itself never compares the command with it (R62). -/
def Config.cmdReport : Byte := 0x31#8

/-- `SET_PAYLOAD_LEN = 45` (R5). -/
def Config.setPayloadLen : Nat := 45

/-- `MIN_FRAME_BYTES = 5` (R5). -/
def Config.minFrameBytes : Nat := 5

/-- `PAYLOAD_BASE = 4`: the frame index of payload offset 0 (R5). -/
def Config.payloadBase : Nat := 4

/-- `INDOOR_TEMP_OFFSET = 16` (R5). -/
def Config.indoorTempOffset : Nat := 16

/-- `LEN_OVERHEAD = 2`: a non-SET payload is `length - LEN_OVERHEAD` bytes (R6, 90_conflicts.md C1). A named constant,
so that the other reading (3) can be put in its place. -/
def Config.lenOverhead : Nat := 2

/-- `N_MAX = 258`: the capacity of the frame buffer in bytes (R9). -/
def Config.nMax : Nat := 258

/-- The extractor's constant: a candidate is `3 + length` bytes (R161; 92_eei_decisions.md D17). -/
def Config.extractBias : Nat := 3

/-- `INDOOR_TEMP_DIV` exists, has no stated value, and no rule reads it (R7; 93_implementation_defined.md U11).
Free: log entry 3. -/
opaque Config.indoorTempDiv : Rat

/-- The entries of table A that the spec does not print, by index (R8, R136; 93_implementation_defined.md U5).
Free: log entry 2. -/
opaque Config.tempAOpen : Nat → Rat

/-- The entries of table B that the spec does not print, by index (R8, R136; 93_implementation_defined.md U5).
Free: log entry 2. -/
opaque Config.tempBOpen : Nat → Rat

/-- What the frame buffer byte at an index holds while nothing has been loaded there since a reset: "any byte"
(R32; 93_implementation_defined.md U10). The first argument is the number of resets so far, so that two resets need not
leave the same bytes. Free: log entry 1. -/
opaque Config.fbUnwritten : Nat → Nat → Byte

end Sys2Proof
end

