-- ==== Sys2Proof/Syntax.lean ====
section
/-! DEFINITION. The syntax of the block: directions, interpreters and field descriptors (R62, R64, R65 of
30_encoding.md) and the one inductive `Instr`, one constructor for each row of spec/opcode_table.json. -/

namespace Sys2Proof

/-- The direction of a frame (R62): SET exactly when the command byte is `0x01`, else REPORT. -/
inductive Direction where
  | set
  | report
deriving DecidableEq, Repr

/-- The eight interpreters a descriptor may name (R65). -/
inductive Interp where
  | bool
  | uint
  | enumMode
  | enumDisp
  | tempIdx
  | tempSel
  | sub16
  | beeper
deriving DecidableEq, Repr

/-- A BitField descriptor (R64): payload byte offset, mask, right shift, interpreter, and `cont`, set when the raw value
is to be OR-ed with that of the next descriptor into one field. -/
structure Descriptor where
  off : BitVec 6
  mask : Byte
  shift : BitVec 3
  interp : Interp
  cont : Bool
deriving DecidableEq, Repr

/-- The operations of the opcode table: the three command cases of R62, the twenty descriptor rows of R66, and the two
operations without a descriptor (R135, R138). Only `frameOther` has an operand, the command byte it was decoded from. -/
inductive Instr where
  | frameSet
  | frameReport
  | frameOther (command : Byte)
  | fxPower
  | fxMode
  | fxTsel
  | fxTtab
  | fxFan
  | fxFan2
  | fxQuiet
  | fxTurbo
  | fxVswing
  | fxHswing
  | fxDmode
  | fxDon
  | fxDunitf
  | fxPlasma
  | fxPlasma2
  | fxSleep
  | fxXfan
  | fxSave
  | fxBeep
  | fxItemp
  | lkTtemp
  | noteBeep
deriving DecidableEq, Repr

/-- The three sorts of encoding the opcode table has: a command byte, a 24-bit descriptor ROM word, and none. -/
inductive Instr.Format where
  | command
  | descriptor
  | unencoded
deriving DecidableEq, Repr

/-- The encoding sort of each operation (R62, R66, R135, R138). -/
def Instr.format : Instr → Instr.Format
  | .frameSet | .frameReport | .frameOther _ => .command
  | .fxPower | .fxMode | .fxTsel | .fxTtab | .fxFan | .fxFan2 | .fxQuiet | .fxTurbo | .fxVswing | .fxHswing
  | .fxDmode | .fxDon | .fxDunitf | .fxPlasma | .fxPlasma2 | .fxSleep | .fxXfan | .fxSave | .fxBeep
  | .fxItemp => .descriptor
  | .lkTtemp | .noteBeep => .unencoded

/-- The operations of the twenty descriptor rows, in the order of the descriptor ROM (R66). -/
def Instr.descriptorRows : List Instr :=
  [.fxPower, .fxMode, .fxTsel, .fxTtab, .fxFan, .fxFan2, .fxQuiet, .fxTurbo, .fxVswing, .fxHswing] ++
  [.fxDmode, .fxDon, .fxDunitf, .fxPlasma, .fxPlasma2, .fxSleep, .fxXfan, .fxSave, .fxBeep, .fxItemp]

end Sys2Proof
end

