-- ==== Sys2Proof/WellFormed.lean ====
section
/-! DEFINITION. Which terms of `Instr` the spec's encodings can spell: `FRAME.OTHER` is the row tried last, so its
command byte is neither `0x01` nor `0x31` (R62 of 30_encoding.md, R92 of 40_frame_validation.md). -/

namespace Sys2Proof

/-- The two checks on an instruction: a `FRAME.OTHER` whose operand is SET's command byte, or REPORT's, is ill-formed.
Every other term is well formed. -/
def Instr.wf : Instr → Bool
  | .frameOther c => c != Config.cmdSet && c != Config.cmdReport
  | .frameSet | .frameReport
  | .fxPower | .fxMode | .fxTsel | .fxTtab | .fxFan | .fxFan2 | .fxQuiet | .fxTurbo | .fxVswing | .fxHswing
  | .fxDmode | .fxDon | .fxDunitf | .fxPlasma | .fxPlasma2 | .fxSleep | .fxXfan | .fxSave | .fxBeep
  | .fxItemp | .lkTtemp | .noteBeep => true

end Sys2Proof
end

