-- ==== Sys2Proof/Decode.lean ====
section
/-! DEFINITION. Encodings: the descriptor ROM (R64 to R66 of 30_encoding.md), the command selector (R62), the decoder
from bytes to an instruction or a named rejection, the encoder, and the host's `decodeTableWord`. -/

namespace Sys2Proof

/-! ### The descriptor ROM (R66): columns off, mask, shift, interp, cont -/

/-- Descriptor 0, `FX.POWER` (R66, R104). -/
def descPower : Descriptor := ⟨4#6, 0x80#8, 7#3, .bool, false⟩
/-- Descriptor 1, `FX.MODE` (R66, R130). -/
def descMode : Descriptor := ⟨4#6, 0x70#8, 4#3, .enumMode, false⟩
/-- Descriptor 2, `FX.TSEL` (R66, R133). -/
def descTsel : Descriptor := ⟨5#6, 0xF0#8, 4#3, .tempIdx, false⟩
/-- Descriptor 3, `FX.TTAB` (R66, R134). -/
def descTtab : Descriptor := ⟨7#6, 0x40#8, 0#3, .tempSel, false⟩
/-- Descriptor 4, `FX.FAN` (R66, R105). -/
def descFan : Descriptor := ⟨18#6, 0x0F#8, 0#3, .uint, false⟩
/-- Descriptor 5, `FX.FAN2` (R66, R106). -/
def descFan2 : Descriptor := ⟨4#6, 0x03#8, 0#3, .uint, false⟩
/-- Descriptor 6, `FX.QUIET` (R66, R107). -/
def descQuiet : Descriptor := ⟨16#6, 0x08#8, 0#3, .bool, false⟩
/-- Descriptor 7, `FX.TURBO` (R66, R108). -/
def descTurbo : Descriptor := ⟨6#6, 0x01#8, 0#3, .bool, false⟩
/-- Descriptor 8, `FX.VSWING` (R66, R109). -/
def descVswing : Descriptor := ⟨8#6, 0xF0#8, 4#3, .uint, false⟩
/-- Descriptor 9, `FX.HSWING` (R66, R110). -/
def descHswing : Descriptor := ⟨8#6, 0x07#8, 0#3, .uint, false⟩
/-- Descriptor 10, `FX.DMODE` (R66, R132). -/
def descDmode : Descriptor := ⟨9#6, 0x30#8, 4#3, .enumDisp, false⟩
/-- Descriptor 11, `FX.DON` (R66, R111). -/
def descDon : Descriptor := ⟨6#6, 0x02#8, 0#3, .bool, false⟩
/-- Descriptor 12, `FX.DUNITF` (R66, R112). -/
def descDunitf : Descriptor := ⟨7#6, 0x80#8, 0#3, .bool, false⟩
/-- Descriptor 13, `FX.PLASMA`, first location (R66, R113). -/
def descPlasma : Descriptor := ⟨6#6, 0x04#8, 0#3, .bool, true⟩
/-- Descriptor 14, `FX.PLASMA`, second location (R66, R113). -/
def descPlasma2 : Descriptor := ⟨0#6, 0x04#8, 0#3, .bool, false⟩
/-- Descriptor 15, `FX.SLEEP` (R66, R114). -/
def descSleep : Descriptor := ⟨4#6, 0x08#8, 0#3, .bool, false⟩
/-- Descriptor 16, `FX.XFAN` (R66, R115). -/
def descXfan : Descriptor := ⟨6#6, 0x08#8, 0#3, .bool, false⟩
/-- Descriptor 17, `FX.SAVE` (R66, R116). -/
def descSave : Descriptor := ⟨11#6, 0x40#8, 0#3, .bool, false⟩
/-- Descriptor 18, `FX.BEEP` (R66, R137). -/
def descBeep : Descriptor := ⟨40#6, 0x01#8, 0#3, .beeper, false⟩
/-- Descriptor 19, `FX.ITEMP` (R66, R139). -/
def descItemp : Descriptor := ⟨42#6, 0xFF#8, 0#3, .sub16, false⟩

/-- `DESC[0..19]`, the descriptor ROM in the order of R66 (R25). -/
def descRom : List Descriptor :=
  [descPower, descMode, descTsel, descTtab, descFan, descFan2, descQuiet, descTurbo, descVswing, descHswing] ++
  [descDmode, descDon, descDunitf, descPlasma, descPlasma2, descSleep, descXfan, descSave, descBeep, descItemp]

/-- The descriptor a row of the table owns, if it has one: `LK.TTEMP` and `NOTE.BEEP` have none (R66), and a command
case is no field operation. -/
def descriptorOf : Instr → Option Descriptor
  | .fxPower => some descPower
  | .fxMode => some descMode
  | .fxTsel => some descTsel
  | .fxTtab => some descTtab
  | .fxFan => some descFan
  | .fxFan2 => some descFan2
  | .fxQuiet => some descQuiet
  | .fxTurbo => some descTurbo
  | .fxVswing => some descVswing
  | .fxHswing => some descHswing
  | .fxDmode => some descDmode
  | .fxDon => some descDon
  | .fxDunitf => some descDunitf
  | .fxPlasma => some descPlasma
  | .fxPlasma2 => some descPlasma2
  | .fxSleep => some descSleep
  | .fxXfan => some descXfan
  | .fxSave => some descSave
  | .fxBeep => some descBeep
  | .fxItemp => some descItemp
  | .frameSet | .frameReport | .frameOther _ | .lkTtemp | .noteBeep => none

/-- The numeric code of an interpreter in the ROM word (R65). -/
def Interp.code : Interp → BitVec 4
  | .bool => 0
  | .uint => 1
  | .enumMode => 2
  | .enumDisp => 3
  | .tempIdx => 4
  | .tempSel => 5
  | .sub16 => 6
  | .beeper => 7

/-- The packed ROM word (R65): off [23:18], mask [17:10], shift [9:7], interp [6:3], cont [2], zero [1:0]. -/
def Descriptor.pack (d : Descriptor) : RomWord :=
  d.off.setWidth 24 <<< 18 ||| d.mask.setWidth 24 <<< 10 ||| d.shift.setWidth 24 <<< 7 |||
    d.interp.code.setWidth 24 <<< 3 ||| (BitVec.ofBool d.cont).setWidth 24 <<< 2

/-! ### The decoder -/

/-- Why a byte string is no operation of the table. -/
inductive DecodeError where
  /-- The string is not one, two or three bytes long. -/
  | badLength
  /-- A descriptor word with a bit of [1:0] set, which R65 reserves as 0. -/
  | reservedBits
  /-- A descriptor word whose interpreter code is 8 to 15: "reserved, not used by any entry" (R65). -/
  | reservedInterp
  /-- A descriptor word with legal fields that is no entry of the constant ROM (R66). -/
  | notInRom
  /-- A two-byte selector (the model's own, log entry 6) other than 0 and 1. -/
  | badSelector
deriving DecidableEq, Repr

/-- The command selector (R62): `FRAME.SET`, `FRAME.REPORT`, and `FRAME.OTHER` as the default, tried last. -/
def decodeCommand (c : Byte) : Instr :=
  if c = 0x01#8 then .frameSet else if c = 0x31#8 then .frameReport else .frameOther c

/-- The ROM word column of R66, beside the row it belongs to. -/
def romRows : List (RomWord × Instr) :=
  [(0x120380#24, .fxPower), (0x11C210#24, .fxMode), (0x17C220#24, .fxTsel), (0x1D0028#24, .fxTtab), (0x483C08#24, .fxFan)] ++
  [(0x100C08#24, .fxFan2), (0x402000#24, .fxQuiet), (0x180400#24, .fxTurbo), (0x23C208#24, .fxVswing), (0x201C08#24, .fxHswing)] ++
  [(0x24C218#24, .fxDmode), (0x180800#24, .fxDon), (0x1E0000#24, .fxDunitf), (0x181004#24, .fxPlasma), (0x001000#24, .fxPlasma2)] ++
  [(0x102000#24, .fxSleep), (0x182000#24, .fxXfan), (0x2D0000#24, .fxSave), (0xA00438#24, .fxBeep), (0xABFC30#24, .fxItemp)]

/-- The row of a list of ROM rows that holds a word. -/
def findRow (w : RomWord) : List (RomWord × Instr) → Option Instr
  | [] => none
  | (k, i) :: rows => if w = k then some i else findRow w rows

/-- Read a descriptor ROM word (R65, R66); what R65 reserves and what the ROM does not hold is rejected by name. -/
def decodeDescriptor (w : RomWord) : Except DecodeError Instr :=
  if w.extractLsb' 0 2 ≠ 0#2 then .error .reservedBits
  else if 8 ≤ (w.extractLsb' 3 4).toNat then .error .reservedInterp
  else match findRow w romRows with
    | some i => .ok i
    | none => .error .notInRom

/-- The model's own selectors for the two operations the spec gives no encoding (R66, R135; log entry 6). -/
def decodeSelector (w : BitVec 16) : Except DecodeError Instr :=
  if w = 0#16 then .ok .lkTtemp else if w = 1#16 then .ok .noteBeep else .error .badSelector

/-- The operation of one table row named by its bytes, lowest bits first: three bytes are a descriptor ROM word, two
are a selector (log entries 5 and 6). -/
def decodeRow : List Byte → Except DecodeError Instr
  | [b0, b1, b2] => decodeDescriptor (b0.setWidth 24 ||| b1.setWidth 24 <<< 8 ||| b2.setWidth 24 <<< 16)
  | [b0, b1] => decodeSelector (b0.setWidth 16 ||| b1.setWidth 16 <<< 8)
  | _ => .error .badLength

/-- The decoder, total on any bytes: one byte is a command byte (R62), two or three bytes a row. -/
def decode : List Byte → Except DecodeError Instr
  | [c] => .ok (decodeCommand c)
  | bs => decodeRow bs

/-! ### The encoder -/

/-- The three bytes of a ROM word, lowest bits first (log entry 5). -/
def romWordBytes (w : RomWord) : List Byte :=
  [w.extractLsb' 0 8, w.extractLsb' 8 8, w.extractLsb' 16 8]

/-- The bytes of an instruction: the command byte of R62, the packed descriptor of R65 and R66, or the model's own
selector (log entry 6). -/
def encode : Instr → List Byte
  | .frameSet => [Config.cmdSet]
  | .frameReport => [Config.cmdReport]
  | .frameOther c => [c]
  | .fxPower => romWordBytes descPower.pack
  | .fxMode => romWordBytes descMode.pack
  | .fxTsel => romWordBytes descTsel.pack
  | .fxTtab => romWordBytes descTtab.pack
  | .fxFan => romWordBytes descFan.pack
  | .fxFan2 => romWordBytes descFan2.pack
  | .fxQuiet => romWordBytes descQuiet.pack
  | .fxTurbo => romWordBytes descTurbo.pack
  | .fxVswing => romWordBytes descVswing.pack
  | .fxHswing => romWordBytes descHswing.pack
  | .fxDmode => romWordBytes descDmode.pack
  | .fxDon => romWordBytes descDon.pack
  | .fxDunitf => romWordBytes descDunitf.pack
  | .fxPlasma => romWordBytes descPlasma.pack
  | .fxPlasma2 => romWordBytes descPlasma2.pack
  | .fxSleep => romWordBytes descSleep.pack
  | .fxXfan => romWordBytes descXfan.pack
  | .fxSave => romWordBytes descSave.pack
  | .fxBeep => romWordBytes descBeep.pack
  | .fxItemp => romWordBytes descItemp.pack
  | .lkTtemp => [0x00#8, 0x00#8]
  | .noteBeep => [0x01#8, 0x00#8]

/-! ### The opcode table's words -/

/-- The bytes of a number, lowest byte first. -/
def numberBytes : Nat → Nat → List Byte
  | 0, _ => []
  | k + 1, w => BitVec.ofNat 8 w :: numberBytes k (w / 256)

/-- The bytes of a word of `nbits` bits, in whole bytes, lowest byte first. -/
def wordBytes (nbits w : Nat) : List Byte := numberBytes ((nbits + 7) / 8) (w % 2 ^ nbits)

/-- What the decoder reads from a word numbered as spec/opcode_table.json numbers it. -/
def decodeTableWord (nbits w : Nat) : Option Instr :=
  match decode (wordBytes nbits w) with
  | .ok i => some i
  | .error _ => none

end Sys2Proof
end

