-- ==== Sys2Proof/Machine/State.lean ====
section
/-! DEFINITION. The state of the block as plain data (10_state.md R21 to R32): the frame buffer and length register, the
result register with every field of R26 and R27, RES_VALID, the enabled decoder step; and the model's own fields for the
host side (R20, R30; log entries 1, 4 and 7). The reasons a step can stop, and the state after reset. -/

namespace Sys2Proof.Machine

/-! ### The result register -/

/-- One entry of the result record: a valid bit and a value; `valid = 0` with value bits 0 is `NOVALUE` (R27). -/
structure Field (w : Nat) where
  valid : Bool
  value : BitVec w
deriving DecidableEq, Repr

/-- The `mode` entry: a 3-bit code and the `known` bit (R27, R130). -/
structure ModeField where
  valid : Bool
  code : BitVec 3
  known : Bool
deriving DecidableEq, Repr

/-- The `target_temp` entry: a table entry, a rational number of degrees (R27, R136); its encoding is open. -/
structure TempField where
  valid : Bool
  value : Rat
deriving DecidableEq, Repr

/-- The 21 field entries of `RES`, in the report order of R27 and R151. -/
structure Fields where
  powerBitRaw : Field 1
  mode : ModeField
  targetTempSelect : Field 4
  tempTableSelect : Field 1
  targetTemp : TempField
  fanSpeed : Field 4
  fanSpeedAlt : Field 2
  fanQuiet : Field 1
  fanTurbo : Field 1
  verticalSwing : Field 4
  horizontalSwing : Field 3
  displayMode : Field 2
  displayOn : Field 1
  displayFahrenheit : Field 1
  plasma : Field 1
  sleep : Field 1
  xfan : Field 1
  saveEco : Field 1
  beeperRaw : Field 1
  beeperNote : Field 1
  indoorTemp : Field 9
deriving DecidableEq, Repr

/-- The result register `RES` (R26): the frame-level part and the field entries. -/
structure Res where
  status : BitVec 2
  length : Byte
  command : Byte
  direction : BitVec 1
  payloadLen : Byte
  checksum : Byte
  checksumOk : Bool
  fields : Fields
deriving DecidableEq, Repr

/-- `NOVALUE` (00_scope.md, pseudocode primitives; R27): valid bit 0, value bits 0. -/
def Field.none (w : Nat) : Field w := ⟨false, 0⟩

/-- `NOVALUE` of the `mode` entry. -/
def ModeField.none : ModeField := ⟨false, 0, false⟩

/-- `NOVALUE` of the `target_temp` entry. -/
def TempField.none : TempField := ⟨false, 0⟩

/-- Every field entry and every valid bit 0. -/
def Fields.zero : Fields where
  powerBitRaw := Field.none 1
  mode := ModeField.none
  targetTempSelect := Field.none 4
  tempTableSelect := Field.none 1
  targetTemp := TempField.none
  fanSpeed := Field.none 4
  fanSpeedAlt := Field.none 2
  fanQuiet := Field.none 1
  fanTurbo := Field.none 1
  verticalSwing := Field.none 4
  horizontalSwing := Field.none 3
  displayMode := Field.none 2
  displayOn := Field.none 1
  displayFahrenheit := Field.none 1
  plasma := Field.none 1
  sleep := Field.none 1
  xfan := Field.none 1
  saveEco := Field.none 1
  beeperRaw := Field.none 1
  beeperNote := Field.none 1
  indoorTemp := Field.none 9

/-- `RES` with every field 0 but the status code: the reset value with code 0 (R32), and what a hard error leaves with
the error's code (R153, R187). -/
def Res.ofStatus (code : BitVec 2) : Res where
  status := code
  length := 0
  command := 0
  direction := 0
  payloadLen := 0
  checksum := 0
  checksumOk := false
  fields := Fields.zero

/-! ### The host's side -/

/-- What the host may ask of the block, one request a step. `load`, `start` and `read` are the operations of R30;
`readFrame` is the host's read of a frame-buffer byte (R26, R40); `reset` is the reset event (R200); `row` asks for one
row of the table on its own and is the model's own port (log entry 5). -/
inductive HostOp where
  | load (b : List Byte)
  | start
  | read
  | readFrame (a : Nat)
  | reset
  | row (w : List Byte)
deriving DecidableEq, Repr

/-- What a `read` or `readFrame` request hands to the host. -/
inductive HostData where
  | result (r : Res)
  | byte (b : Byte)
deriving DecidableEq, Repr

/-! ### The state -/

/-- The frame buffer as a list of (index, byte) pairs: the bytes loaded since the last reset (R21; log entry 1). -/
abbrev Memory := List Host.Cell

/-- The whole state. `fb`, `n`, `resValid`, `res` are the spec's registers (R21, R23, R26, R27); `start` says that the
decoder's step is enabled (R30, R31); `requests`, `out` and `resets` are the model's own: the host's pending requests,
what the host last read, and the number of resets (log entries 1, 4 and 7). -/
structure State where
  fb : Memory
  n : BitVec 9
  resValid : Bool
  res : Res
  start : Bool
  requests : List HostOp
  out : Option HostData
  resets : Nat
deriving DecidableEq, Repr

/-- The state right after reset (R32, R200): `RES_VALID = 0`, `N = 0`, `RES` all 0, nothing loaded in the frame buffer,
no step enabled. -/
def State.reset : State where
  fb := []
  n := 0
  resValid := false
  res := Res.ofStatus 0
  start := false
  requests := []
  out := Option.none
  resets := 0

/-! ### Why a step can stop -/

/-- A fault: the machine stops. -/
inductive Fault where
  /-- The host reads a frame-buffer index `a` that is not below `N`: `MemRead` is defined "for `0 <= a < N` and for no
  other `a`" (R40). Raised by a `readFrame` request only, never by the decoder or by an instruction. Safe. -/
  | frameAddress (a : Nat)
deriving DecidableEq, Repr

/-- A refusal: the model gives no meaning. -/
inductive Refusal where
  /-- An instruction that has no meaning yet. Raised by no arm of `exec`. Safe. -/
  | notModelled (mnemonic : String)
  /-- The host reads `RES`, or asks for a row on the payload `RES` describes, while `RES_VALID = 0`: "treat a read as
  `refuse`" (93_implementation_defined.md U10). Raised by a `read` and by a `row` request only. Safe. -/
  | resNotValid
  /-- A `row` request whose bytes are no row of the table (R65, R66). Raised by a `row` request only. Safe. -/
  | notInTable (e : DecodeError)
deriving DecidableEq, Repr

/-- The three outcomes of a step of this machine. -/
abbrev Result := Host.Outcome State Fault Refusal

end Sys2Proof.Machine
end

