-- ==== Sys2Proof/Machine/Ops.lean ====
section
/-! DEFINITION. The named operations over the frame buffer and the registers: reading and writing frame bytes (R21,
R40, R43), the updates of RES, and ending a decode with a hard error as one shared operation (R153, R180, R187). -/

namespace Sys2Proof.Machine

/-! ### The frame buffer as a list of cells -/

/-- The loaded byte at an index, or nothing where no byte has been loaded since reset. -/
def Memory.read : Memory → Nat → Option Byte
  | [], _ => none
  | (k, v) :: m, a => if k = a then some v else Memory.read m a

/-- Store one byte, keeping the indices strictly rising. -/
def Memory.write : Memory → Nat → Byte → Memory
  | [], a, b => [(a, b)]
  | (k, v) :: m, a, b =>
    if a < k then (a, b) :: (k, v) :: m
    else if a = k then (a, b) :: m
    else (k, v) :: Memory.write m a b

/-- Store a byte string from an index upwards: the `FB[i] <- b[i]` of `LOAD` (R30). -/
def Memory.writeBytes (m : Memory) (a : Nat) : List Byte → Memory
  | [] => m
  | b :: bs => Memory.writeBytes (Memory.write m a b) (a + 1) bs

/-- Every index of the list is at least `lo`, and the indices rise strictly. -/
def Memory.risingFrom : Nat → Memory → Bool
  | _, [] => true
  | lo, (k, _) :: m => decide (lo ≤ k) && Memory.risingFrom (k + 1) m

/-- The canonical form: indices strictly rising, and each one a frame-buffer index `0..257` (R21). An unlisted index
reads as no value, so no entry can equal what an unlisted index reads as (log entry 1). -/
def Memory.wf (m : Memory) : Bool :=
  Memory.risingFrom 0 m && m.all fun c => decide (c.1 < Config.nMax)

/-! ### Reading the frame and the payload -/

/-- `FB[i]`: the loaded byte, or the free value of an index nothing has been loaded to since reset (R32: "any byte"). -/
def State.fbByte (s : State) (i : Nat) : Byte :=
  (Memory.read s.fb i).getD (Config.fbUnwritten s.resets i)

/-- `FB[lo : lo + len]`, in index order (R12, R41). -/
def State.fbSlice (s : State) (lo len : Nat) : List Byte :=
  (List.range len).map fun k => s.fbByte (lo + k)

/-- The payload that `RES` describes: `FB[4 .. 4 + payload_len - 1]` (R26, R43). -/
def State.payload (s : State) : List Byte :=
  s.fbSlice Config.payloadBase s.res.payloadLen.toNat

/-! ### Updates -/

/-- `RES.f <- v` on the field part of `RES`. -/
def State.withFields (s : State) (f : Fields) : State :=
  { s with res := { s.res with fields := f } }

/-- A completed decode: `RES` is written whole and `RES_VALID <- 1` (R31). -/
def State.finish (s : State) (r : Res) : State :=
  { s with res := r, resValid := true }

/-- `LOAD(b)` (R30): the first 258 bytes go to `FB` from index 0, `N` is their number, `RES_VALID <- 0`; other bytes of
`FB`, and `RES`, keep what they held (R9, R30; 93_implementation_defined.md U10, U15). -/
def State.load (s : State) (b : List Byte) : State :=
  { s with
    fb := Memory.writeBytes s.fb 0 (b.take Config.nMax)
    n := BitVec.ofNat 9 (b.take Config.nMax).length
    resValid := false }

/-- The reset event (R32, R200): the block goes to its reset state. The host's side (its pending requests and what it
last read) is not the block's and stays; the count of resets goes up, so that `FB` is unspecified anew. -/
def State.doReset (s : State) : State :=
  { State.reset with requests := s.requests, out := s.out, resets := s.resets + 1 }

/-! ### Outcomes of a decode -/

/-- The three hard errors (R180). -/
inductive HardError where
  | frameTooShort
  | missingSync
  | frameTruncated
deriving DecidableEq, Repr

/-- The code of a successful decode in `RES.status` (R180). -/
def statusOk : BitVec 2 := 0

/-- The code of a hard error in `RES.status` (R180). -/
def HardError.code : HardError → BitVec 2
  | .frameTooShort => 1
  | .missingSync => 2
  | .frameTruncated => 3

/-- `raise E` (R153, R187): `RES.status` is the error's code, every other field of `RES` is 0, `RES_VALID <- 1`; `FB`
and `N` are not touched, nothing is saved, no mode changes. There is no return from it: the block is ready for the next
request (R188). -/
def State.raise (s : State) (e : HardError) : State :=
  s.finish (Res.ofStatus e.code)

end Sys2Proof.Machine
end

