-- ==== Sys2Proof/Machine/Operands.lean ====
section
/-! DEFINITION. The operand forms: the one extraction primitive (R43, R67, R100 of 20_memory.md, 30_encoding.md and
41_field_extraction.md), the OR of a field's locations (R64, R113), the temperature ROMs (R8, R136), the direction and
the payload length (R62, R83, R88), the byte sum (R85). -/

namespace Sys2Proof.Machine

/-- `EXTRACT(off, mask, shift) = (PL(off) & mask) >> shift` on a payload; nothing where the offset is not below `plen`,
in which case no payload byte is read (R100, R101). -/
def extract (p : List Byte) (d : Descriptor) : Option Byte :=
  match p[d.off.toNat]? with
  | some b => some ((b &&& d.mask) >>> d.shift.toNat)
  | none => none

/-- The raw value of a field over all its locations: one for every row but `plasma`, whose first descriptor has `cont`
and is OR-ed with the next (R64, R113). Nothing if any location does not exist (R101). -/
def rawValue (p : List Byte) : List Descriptor → Option Byte
  | [] => some 0
  | d :: ds =>
    match extract p d, rawValue p ds with
    | some a, some b => some (a ||| b)
    | _, _ => none

/-- `TEMP_A[i]`: 20.0 at index 4, the other entries open (R8, R136; log entry 2). -/
def tempA (i : Nat) : Rat := if i = 4 then 20 else Config.tempAOpen i

/-- `TEMP_B[i]`: the literal 0 at indices 4, 9 and 14, the other entries open (R8, R136; log entry 2). -/
def tempB (i : Nat) : Rat := if i = 4 ∨ i = 9 ∨ i = 14 then 0 else Config.tempBOpen i

/-- The direction a command byte selects (R62). -/
def directionOf (command : Byte) : Direction :=
  if command = Config.cmdSet then .set else .report

/-- The direction bit of `RES` (R23, R26): 1 for SET, 0 for REPORT. -/
def directionBit : Direction → BitVec 1
  | .set => 1
  | .report => 0

/-- `plen` (R83), in the integers (R88): 45 for SET, `length - LEN_OVERHEAD` otherwise, which is negative when the
length byte is 0 or 1. -/
def payloadLength (dir : Direction) (length : Byte) : Int :=
  match dir with
  | .set => (Config.setPayloadLen : Int)
  | .report => (length.toNat : Int) - (Config.lenOverhead : Int)

/-- The sum of a byte string modulo 256 (R85, R88). -/
def sum8 : List Byte → Byte
  | [] => 0
  | b :: bs => b + sum8 bs

end Sys2Proof.Machine
end

