-- ==== Sys2Proof/Machine/Flags.lean ====
section
/-! DEFINITION. Flags and interpreters: the interpreters of a raw value (R65, R102, R103, R139), the valid bit of a
field (R101), the `known` bit (R130), the checksum verdict (R85, R86), and the hard-error conditions in their order
(R80 to R84, R186). -/

namespace Sys2Proof.Machine

/-- What each interpreter makes of a raw value, in the nine bits of the widest entry: BOOL and the two one-bit readings
give 1 for a raw value that is not 0 (R102); UINT, the enumerations and the table index pass it on (R103, R130, R132,
R133); SUB16 subtracts 16 without wrapping in the nine-bit two's complement of `indoor_temp` (R139). -/
def interpret (i : Interp) (raw : Byte) : BitVec 9 :=
  match i with
  | .bool | .tempSel | .beeper => if raw = 0 then 0 else 1
  | .uint | .enumMode | .enumDisp | .tempIdx => raw.setWidth 9
  | .sub16 => raw.setWidth 9 - BitVec.ofNat 9 Config.indoorTempOffset

/-- A field operation driven by the descriptor table (R64, R101): its first descriptor names the interpreter, `more` are
the further locations. The field is valid only when every location exists, and is `NOVALUE` otherwise. -/
def fieldOp (w : Nat) (d : Descriptor) (more : List Descriptor) (p : List Byte) : Field w :=
  match rawValue p (d :: more) with
  | some raw => ⟨true, (interpret d.interp raw).setWidth w⟩
  | none => Field.none w

/-- `mode.known <- (code <= 4)` on a valid code; `NOVALUE` has `known = 0` (R27, R130). -/
def modeOf (f : Field 3) : ModeField :=
  ⟨f.valid, f.value, f.valid && decide (f.value.toNat ≤ 4)⟩

/-- `calc` (R85): length, command and payload summed modulo 256; the sync bytes and the checksum byte are not summed. -/
def checksumCalc (length command : Byte) (payload : List Byte) : Byte :=
  length + command + sum8 payload

/-- `checksum_ok` (R86). -/
def checksumOk (length command : Byte) (payload : List Byte) (checksum : Byte) : Bool :=
  decide (checksumCalc length command payload = checksum)

/-- Steps 1 and 2 (R81, R82), which come before the command byte is read: the length floor, then the sync test. -/
def State.earlyError (s : State) : Option HardError :=
  if s.n.toNat < Config.minFrameBytes then some .frameTooShort
  else if s.fbByte 0 ≠ Config.sync ∨ s.fbByte 1 ≠ Config.sync then some .missingSync
  else none

/-- Steps 1, 2 and 5 in their order (R80, R186): the first hard-error condition that holds, for a candidate taken in a
direction. Step 5 (R84) is `plen < 0` or `4 + plen >= N`, in the integers. -/
def State.hardError (s : State) (dir : Direction) : Option HardError :=
  match s.earlyError with
  | some e => some e
  | none =>
    let plen := payloadLength dir (s.fbByte 2)
    if plen < 0 ∨ (s.n.toNat : Int) ≤ (Config.payloadBase : Int) + plen then some .frameTruncated else none

end Sys2Proof.Machine
end

