-- ==== Sys2Proof/Machine/BoolFields.lean ====
section
/-! DEFINITION. The boolean rows of the bit-layout table (41_field_extraction.md R104, R107, R108, R111 to R116). -/

namespace Sys2Proof.Machine

/-- The value of `FX.POWER` on a payload: bit 7 of payload byte 4 (R104). -/
def fieldPower (p : List Byte) : Field 1 := fieldOp 1 descPower [] p

/-- `FX.POWER` (R104): its entry of `RES` from the payload that `RES` describes. -/
def execFxPower (s : State) : Result :=
  .next (s.withFields { s.res.fields with powerBitRaw := fieldPower s.payload })

/-- The value of `FX.QUIET` on a payload: bit 3 of payload byte 16 (R107). -/
def fieldQuiet (p : List Byte) : Field 1 := fieldOp 1 descQuiet [] p

/-- `FX.QUIET` (R107): its entry of `RES` from the payload that `RES` describes. -/
def execFxQuiet (s : State) : Result :=
  .next (s.withFields { s.res.fields with fanQuiet := fieldQuiet s.payload })

/-- The value of `FX.TURBO` on a payload: bit 0 of payload byte 6 (R108). -/
def fieldTurbo (p : List Byte) : Field 1 := fieldOp 1 descTurbo [] p

/-- `FX.TURBO` (R108): its entry of `RES` from the payload that `RES` describes. -/
def execFxTurbo (s : State) : Result :=
  .next (s.withFields { s.res.fields with fanTurbo := fieldTurbo s.payload })

/-- The value of `FX.DON` on a payload: bit 1 of payload byte 6 (R111). -/
def fieldDon (p : List Byte) : Field 1 := fieldOp 1 descDon [] p

/-- `FX.DON` (R111): its entry of `RES` from the payload that `RES` describes. -/
def execFxDon (s : State) : Result :=
  .next (s.withFields { s.res.fields with displayOn := fieldDon s.payload })

/-- The value of `FX.DUNITF` on a payload: bit 7 of payload byte 7 (R112). -/
def fieldDunitf (p : List Byte) : Field 1 := fieldOp 1 descDunitf [] p

/-- `FX.DUNITF` (R112): its entry of `RES` from the payload that `RES` describes. -/
def execFxDunitf (s : State) : Result :=
  .next (s.withFields { s.res.fields with displayFahrenheit := fieldDunitf s.payload })

/-- The value of `FX.PLASMA` on a payload: bit 2 of payload byte 6 or bit 2 of payload byte 0; both bytes must exist (R113). -/
def fieldPlasma (p : List Byte) : Field 1 := fieldOp 1 descPlasma [descPlasma2] p

/-- `FX.PLASMA` (R113): its entry of `RES` from the payload that `RES` describes. -/
def execFxPlasma (s : State) : Result :=
  .next (s.withFields { s.res.fields with plasma := fieldPlasma s.payload })

/-- The value of `FX.PLASMA.2` on a payload: the second location of the same row; the row has one result, the OR of both locations (log entry 8) (R113). -/
def fieldPlasma2 (p : List Byte) : Field 1 := fieldOp 1 descPlasma [descPlasma2] p

/-- `FX.PLASMA.2` (R113): its entry of `RES` from the payload that `RES` describes. -/
def execFxPlasma2 (s : State) : Result :=
  .next (s.withFields { s.res.fields with plasma := fieldPlasma2 s.payload })

/-- The value of `FX.SLEEP` on a payload: bit 3 of payload byte 4 (R114). -/
def fieldSleep (p : List Byte) : Field 1 := fieldOp 1 descSleep [] p

/-- `FX.SLEEP` (R114): its entry of `RES` from the payload that `RES` describes. -/
def execFxSleep (s : State) : Result :=
  .next (s.withFields { s.res.fields with sleep := fieldSleep s.payload })

/-- The value of `FX.XFAN` on a payload: bit 3 of payload byte 6 (R115). -/
def fieldXfan (p : List Byte) : Field 1 := fieldOp 1 descXfan [] p

/-- `FX.XFAN` (R115): its entry of `RES` from the payload that `RES` describes. -/
def execFxXfan (s : State) : Result :=
  .next (s.withFields { s.res.fields with xfan := fieldXfan s.payload })

/-- The value of `FX.SAVE` on a payload: bit 6 of payload byte 11 (R116). -/
def fieldSave (p : List Byte) : Field 1 := fieldOp 1 descSave [] p

/-- `FX.SAVE` (R116): its entry of `RES` from the payload that `RES` describes. -/
def execFxSave (s : State) : Result :=
  .next (s.withFields { s.res.fields with saveEco := fieldSave s.payload })

end Sys2Proof.Machine
end

