-- ==== Sys2Proof/Machine/IntFields.lean ====
section
/-! DEFINITION. The integer and index rows of the bit-layout table (41_field_extraction.md R105, R106, R109, R110). -/

namespace Sys2Proof.Machine

/-- The value of `FX.FAN` on a payload: the low nibble of payload byte 18 (R105). -/
def fieldFan (p : List Byte) : Field 4 := fieldOp 4 descFan [] p

/-- `FX.FAN` (R105): its entry of `RES` from the payload that `RES` describes. -/
def execFxFan (s : State) : Result :=
  .next (s.withFields { s.res.fields with fanSpeed := fieldFan s.payload })

/-- The value of `FX.FAN2` on a payload: bits 1..0 of payload byte 4; never concatenated with `fan_speed` (R106). -/
def fieldFan2 (p : List Byte) : Field 2 := fieldOp 2 descFan2 [] p

/-- `FX.FAN2` (R106): its entry of `RES` from the payload that `RES` describes. -/
def execFxFan2 (s : State) : Result :=
  .next (s.withFields { s.res.fields with fanSpeedAlt := fieldFan2 s.payload })

/-- The value of `FX.VSWING` on a payload: the high nibble of payload byte 8 (R109). -/
def fieldVswing (p : List Byte) : Field 4 := fieldOp 4 descVswing [] p

/-- `FX.VSWING` (R109): its entry of `RES` from the payload that `RES` describes. -/
def execFxVswing (s : State) : Result :=
  .next (s.withFields { s.res.fields with verticalSwing := fieldVswing s.payload })

/-- The value of `FX.HSWING` on a payload: bits 2..0 of payload byte 8 (R110). -/
def fieldHswing (p : List Byte) : Field 3 := fieldOp 3 descHswing [] p

/-- `FX.HSWING` (R110): its entry of `RES` from the payload that `RES` describes. -/
def execFxHswing (s : State) : Result :=
  .next (s.withFields { s.res.fields with horizontalSwing := fieldHswing s.payload })

end Sys2Proof.Machine
end

