-- ==== Sys2Proof/Machine/LookupFields.lean ====
section
/-! DEFINITION. The rows of 42_lookup_interpretation.md: the enumerations (R130, R132), the temperature select, table and
lookup (R133 to R136), the beeper bit and its note (R137, R138), the indoor temperature (R139). -/

namespace Sys2Proof.Machine

/-- The value of `FX.MODE` on a payload: bits 6..4 of payload byte 4, with `known` set for the codes 0..4 (R130). -/
def fieldMode (p : List Byte) : ModeField := modeOf (fieldOp 3 descMode [] p)

/-- `FX.MODE` (R130): its entry of `RES` from the payload that `RES` describes. -/
def execFxMode (s : State) : Result :=
  .next (s.withFields { s.res.fields with mode := fieldMode s.payload })

/-- The value of `FX.DMODE` on a payload: bits 5..4 of payload byte 9 (R132). -/
def fieldDmode (p : List Byte) : Field 2 := fieldOp 2 descDmode [] p

/-- `FX.DMODE` (R132): its entry of `RES` from the payload that `RES` describes. -/
def execFxDmode (s : State) : Result :=
  .next (s.withFields { s.res.fields with displayMode := fieldDmode s.payload })

/-- The value of `FX.TSEL` on a payload: the high nibble of payload byte 5 (R133). -/
def fieldTsel (p : List Byte) : Field 4 := fieldOp 4 descTsel [] p

/-- `FX.TSEL` (R133): its entry of `RES` from the payload that `RES` describes. -/
def execFxTsel (s : State) : Result :=
  .next (s.withFields { s.res.fields with targetTempSelect := fieldTsel s.payload })

/-- The value of `FX.TTAB` on a payload: bit 6 of payload byte 7: 0 selects table A, 1 table B (R134). -/
def fieldTtab (p : List Byte) : Field 1 := fieldOp 1 descTtab [] p

/-- `FX.TTAB` (R134): its entry of `RES` from the payload that `RES` describes. -/
def execFxTtab (s : State) : Result :=
  .next (s.withFields { s.res.fields with tempTableSelect := fieldTtab s.payload })

/-- The looked-up temperature from the results of `FX.TSEL` and `FX.TTAB` (R135): `NOVALUE` unless both are valid, else
the entry of table A or B. The index has four bits, so R135's out-of-range arm cannot occur and is left out
(93_implementation_defined.md U6). -/
def lookupTemp (sel : Field 4) (tab : Field 1) : TempField :=
  if sel.valid && tab.valid then
    ⟨true, if tab.value = 0 then tempA sel.value.toNat else tempB sel.value.toNat⟩
  else TempField.none

/-- `LK.TTEMP` (R135): it reads the two entries of `RES` and no payload byte of its own. -/
def execLkTtemp (s : State) : Result :=
  .next (s.withFields { s.res.fields with
    targetTemp := lookupTemp s.res.fields.targetTempSelect s.res.fields.tempTableSelect })

/-- The value of `FX.BEEP` on a payload: bit 0 of payload byte 40, never inverted (R137). -/
def fieldBeep (p : List Byte) : Field 1 := fieldOp 1 descBeep [] p

/-- `FX.BEEP` (R137): its entry of `RES` from the payload that `RES` describes. -/
def execFxBeep (s : State) : Result :=
  .next (s.withFields { s.res.fields with beeperRaw := fieldBeep s.payload })

/-- The value of `FX.ITEMP` on a payload: payload byte 42 minus 16, in nine-bit two's complement (R139). -/
def fieldItemp (p : List Byte) : Field 9 := fieldOp 9 descItemp [] p

/-- `FX.ITEMP` (R139): its entry of `RES` from the payload that `RES` describes. -/
def execFxItemp (s : State) : Result :=
  .next (s.withFields { s.res.fields with indoorTemp := fieldItemp s.payload })

/-- The directional note (R138): 1 = SET_INVERTED, 0 = REPORT_DIRECT, always valid. -/
def noteOf (directionBits : BitVec 1) : Field 1 := ⟨true, directionBits⟩

/-- `NOTE.BEEP` (R138): it reads the direction only. -/
def execNoteBeep (s : State) : Result :=
  .next (s.withFields { s.res.fields with beeperNote := noteOf s.res.direction })

end Sys2Proof.Machine
end

