-- ==== Sys2Proof/Machine/Frame.lean ====
section
/-! DEFINITION. The frame level: `DECODE_PAYLOAD` (43_result_assembly.md R150), the result of a decode (R152, R153) and
the three command cases of `DECODE_FRAME` (40_frame_validation.md R80, R90 to R92). -/

namespace Sys2Proof.Machine

/-- `DECODE_PAYLOAD(p, dir)` (R44, R150): all 19 rows, then the lookup and the note; a function of the payload and the
direction that cannot fail. -/
def decodePayload (p : List Byte) (dir : Direction) : Fields where
  powerBitRaw := fieldPower p
  mode := fieldMode p
  targetTempSelect := fieldTsel p
  tempTableSelect := fieldTtab p
  targetTemp := lookupTemp (fieldTsel p) (fieldTtab p)
  fanSpeed := fieldFan p
  fanSpeedAlt := fieldFan2 p
  fanQuiet := fieldQuiet p
  fanTurbo := fieldTurbo p
  verticalSwing := fieldVswing p
  horizontalSwing := fieldHswing p
  displayMode := fieldDmode p
  displayOn := fieldDon p
  displayFahrenheit := fieldDunitf p
  plasma := fieldPlasma p
  sleep := fieldSleep p
  xfan := fieldXfan p
  saveEco := fieldSave p
  beeperRaw := fieldBeep p
  beeperNote := noteOf (directionBit dir)
  indoorTemp := fieldItemp p

/-- `RES` on success (R152), for a candidate taken with a direction and a command byte. -/
def State.okResult (s : State) (dir : Direction) (command : Byte) : Res :=
  let plen := (payloadLength dir (s.fbByte 2)).toNat
  let payload := s.fbSlice Config.payloadBase plen
  let checksum := s.fbByte (Config.payloadBase + plen)
  { status := statusOk
    length := s.fbByte 2
    command := command
    direction := directionBit dir
    payloadLen := BitVec.ofNat 8 plen
    checksum := checksum
    checksumOk := checksumOk (s.fbByte 2) command payload checksum
    fields := decodePayload payload dir }

/-- Steps 1 to 8 of `DECODE_FRAME` (R80) in one of its command cases: the first hard error, or the whole result. -/
def State.decodeAs (s : State) (dir : Direction) (command : Byte) : State :=
  match s.hardError dir with
  | some e => s.raise e
  | none => s.finish (s.okResult dir command)

/-- `DECODE_FRAME(FB, N)` (R80): steps 1 and 2, then the command byte picks the case. -/
def State.decodeFrame (s : State) : State :=
  match s.earlyError with
  | some e => s.raise e
  | none => s.decodeAs (directionOf (s.fbByte 3)) (s.fbByte 3)

/-- `FRAME.SET` (R90): `DECODE_FRAME` with `dir = SET` and `plen = 45`, its command byte `0x01`. -/
def execFrameSet (s : State) : Result := .next (s.decodeAs .set Config.cmdSet)

/-- `FRAME.REPORT` (R91): `DECODE_FRAME` with `dir = REPORT` and `plen = length - 2`, its command byte `0x31`. -/
def execFrameReport (s : State) : Result := .next (s.decodeAs .report Config.cmdReport)

/-- `FRAME.OTHER` (R92): "identical to `FRAME.REPORT` in every respect", but `RES.command` carries the actual byte. -/
def execFrameOther (command : Byte) (s : State) : Result := .next (s.decodeAs .report command)

end Sys2Proof.Machine
end

