-- ==== Sys2Proof/Machine/Dispatch.lean ====
section
/-! DEFINITION. One arm for each constructor of `Instr`, each a direct call of its meaning. -/

namespace Sys2Proof.Machine

def exec (i : Instr) (s : State) : Host.Outcome State Fault Refusal :=
  match i with
  | .frameSet => Sys2Proof.Machine.execFrameSet s
  | .frameReport => Sys2Proof.Machine.execFrameReport s
  | .frameOther command => Sys2Proof.Machine.execFrameOther command s
  | .fxPower => Sys2Proof.Machine.execFxPower s
  | .fxMode => Sys2Proof.Machine.execFxMode s
  | .fxTsel => Sys2Proof.Machine.execFxTsel s
  | .fxTtab => Sys2Proof.Machine.execFxTtab s
  | .fxFan => Sys2Proof.Machine.execFxFan s
  | .fxFan2 => Sys2Proof.Machine.execFxFan2 s
  | .fxQuiet => Sys2Proof.Machine.execFxQuiet s
  | .fxTurbo => Sys2Proof.Machine.execFxTurbo s
  | .fxVswing => Sys2Proof.Machine.execFxVswing s
  | .fxHswing => Sys2Proof.Machine.execFxHswing s
  | .fxDmode => Sys2Proof.Machine.execFxDmode s
  | .fxDon => Sys2Proof.Machine.execFxDon s
  | .fxDunitf => Sys2Proof.Machine.execFxDunitf s
  | .fxPlasma => Sys2Proof.Machine.execFxPlasma s
  | .fxPlasma2 => Sys2Proof.Machine.execFxPlasma2 s
  | .fxSleep => Sys2Proof.Machine.execFxSleep s
  | .fxXfan => Sys2Proof.Machine.execFxXfan s
  | .fxSave => Sys2Proof.Machine.execFxSave s
  | .fxBeep => Sys2Proof.Machine.execFxBeep s
  | .fxItemp => Sys2Proof.Machine.execFxItemp s
  | .lkTtemp => Sys2Proof.Machine.execLkTtemp s
  | .noteBeep => Sys2Proof.Machine.execNoteBeep s

end Sys2Proof.Machine
end

