-- ==== Sys2Proof/Machine/Agents.lean ====
section
/-! DEFINITION. The two agents (10_state.md R20, R30, R31): the decoder's step, which fetches the command byte and runs
its operation, and the host's step, which performs one pending request. Below them, the candidate and the request that
`State.withFetchWord` places. -/

namespace Sys2Proof.Machine

/-- The decoder's step (R31, R80): steps 1 and 2 end it before the command byte is read (R81); else the command byte
`FB[3]` is fetched and its operation runs. The step consumes the enable. -/
def decoderStep (s : State) : Result :=
  let t := { s with start := false }
  match t.earlyError with
  | some e => .next (t.raise e)
  | none => exec (decodeCommand (t.fbByte 3)) t

/-- A request for one row of the table (log entry 5): the row's operation runs on the payload that `RES` describes. The
model's choice (log entry 5): while `RES_VALID = 0` `RES` describes no candidate, and the request is refused, so that no
stale `payload_len` picks the frame bytes that are read (R40; 93_implementation_defined.md U10). On a hard error no field
operation runs (R187), so while `RES` holds one the request has no effect. -/
def rowStep (w : List Byte) (s : State) : Result :=
  match decodeRow w with
  | .error e => .refused (.notInTable e)
  | .ok i =>
    if s.resValid then
      if s.res.status = statusOk then exec i s else .next s
    else .refused .resNotValid

/-- One host request (R30, R200), already taken from the pending ones. -/
def performRequest (op : HostOp) (s : State) : Result :=
  match op with
  | .load b => .next (s.load b)
  | .start => .next { s with start := true }
  | .read =>
    if s.resValid then .next { s with out := some (.result s.res) } else .refused .resNotValid
  | .readFrame a =>
    if a < s.n.toNat then .next { s with out := some (.byte (s.fbByte a)) } else .fault (.frameAddress a)
  | .reset => .next s.doReset
  | .row w => rowStep w s

/-- The host's step: the oldest pending request; with none pending, nothing happens (log entry 4). -/
def hostStep (s : State) : Result :=
  match s.requests with
  | [] => .next s
  | op :: rest => performRequest op { s with requests := rest }

/-- A reset is the oldest pending request. -/
def State.resetPending (s : State) : Bool :=
  match s.requests with
  | .reset :: _ => true
  | _ => false

/-- The next step is the decoder's: its step is enabled and no reset abandons it (R31, R200; log entry 4). -/
def State.decoderTurn (s : State) : Bool := s.start && !s.resetPending

/-- One step of the machine: the decoder's when it is enabled, else the host's (R31, R49: a decode and a host operation
never overlap). A reset does not wait for an enabled decode but abandons it (R200; log entry 4). -/
def machineStep (s : State) : Result :=
  if s.decoderTurn then decoderStep s else hostStep s

/-- The candidate that stands for a command byte on its own: 50 bytes, enough for every command case, with sync bytes,
length byte `0x2F` and zeros above the command byte (log entry 9). -/
def candidateFor (command : Byte) : List Byte :=
  [Config.sync, Config.sync, 0x2F#8, command] ++ List.replicate 46 0#8

/-- Pending requests without the resets at their front. -/
def dropResets : List HostOp → List HostOp
  | .reset :: rest => dropResets rest
  | ops => ops

/-- `s`, or where its `RES` does not hold a successful result, `s` with a SET candidate loaded and decoded. -/
def withResult (s : State) : State :=
  if s.resValid && decide (s.res.status = statusOk) then s
  else (s.load (candidateFor Config.cmdSet)).decodeFrame

/-- Place a table word where the next step fetches: a command byte is loaded as a candidate with the decoder's step
enabled and no reset to abandon it; any other word becomes the next pending row request, with no step enabled and a
successful result in `RES` (log entry 9). -/
def placeWord (s : State) (nbits w : Nat) : State :=
  match wordBytes nbits w with
  | [c] => { s.load (candidateFor c) with start := true, requests := dropResets s.requests }
  | bs => { withResult s with start := false, requests := .row bs :: s.requests }

end Sys2Proof.Machine
end

