-- ==== Sys2Proof/Machine/Step.lean ====
section
/-! DEFINITION. The step of the machine and the host's placing of a word to be fetched. -/

namespace Sys2Proof.Machine

/-- One step: the decoder's when enabled and not abandoned by a reset, else the host's next request (R20, R30, R31,
R200). -/
def step (s : State) : Host.Outcome State Fault Refusal := machineStep s

/-- `s` with a table word placed so that the very next step runs that operation (log entry 9). -/
def State.withFetchWord (s : State) (nbits w : Nat) : State := placeWord s nbits w

end Sys2Proof.Machine
end

