-- ==== Sys2Proof/Machine/Env.lean ====
section
/-! DEFINITION. The environment rules of 44_env_extractor.md, which run on the host and not in the block: text to bytes
(R160), the frame extractor (R161 to R164), the host's flow and its fallback policy (R165, R166), and `decode_frame` as
a function of a byte sequence (R71). -/

namespace Sys2Proof.Machine

/-- The value of a hex digit `0-9`, `a-f`, `A-F` (R160). -/
def hexVal (c : Char) : Option Nat :=
  if 0x30 ≤ c.toNat ∧ c.toNat ≤ 0x39 then some (c.toNat - 0x30)
  else if 0x41 ≤ c.toNat ∧ c.toNat ≤ 0x46 then some (c.toNat - 0x37)
  else if 0x61 ≤ c.toNat ∧ c.toNat ≤ 0x66 then some (c.toNat - 0x57)
  else none

/-- The scan of `PARSE_HEX` (R160), with the digit before the current position when it is not yet used. -/
def scanHex : Option Nat → List Char → List Byte
  | _, [] => []
  | pending, c :: cs =>
    match pending, hexVal c with
    | some hi, some lo => BitVec.ofNat 8 (16 * hi + lo) :: scanHex none cs
    | none, some d => scanHex (some d) cs
    | _, none => scanHex none cs

/-- `PARSE_HEX(text)` (R70, R160): adjacent hex digits pair up from left to right, a digit not followed at once by another
is dropped, everything else is skipped. -/
def parseHex (text : List Char) : List Byte := scanHex none text

/-- The candidate at the front of a byte sequence (R161): a sync pair, a length byte, and `3 + length` bytes that fit. -/
def candidateAt : List Byte → Option (List Byte)
  | s0 :: s1 :: len :: rest =>
    let total := Config.extractBias + len.toNat
    if s0 = Config.sync ∧ s1 = Config.sync ∧ total ≤ (s0 :: s1 :: len :: rest).length then
      some ((s0 :: s1 :: len :: rest).take total)
    else none
  | _ => none

/-- `EXTRACT_FRAMES(bytes)` (R161, R162): the candidates at every position, in increasing order; a match does not skip
ahead, so candidates may overlap. It never fails (R163). -/
def extractFrames : List Byte → List (List Byte)
  | [] => []
  | x :: rest => (candidateAt (x :: rest)).toList ++ extractFrames rest

/-- The host's requests for a list of candidates (R165): for each, `LOAD`, `START`, `READ`. -/
def requestsFor (candidates : List (List Byte)) : List HostOp :=
  candidates.flatMap fun c => [.load c, .start, .read]

/-- The host's flow on a text (R165): normalise, extract, offer each candidate to the decoder. -/
def requestsOfText (text : List Char) : List HostOp := requestsFor (extractFrames (parseHex text))

/-- `decode_frame(bytes)` (R71): the `RES` that `LOAD` and the decoder's step give, straight after reset. -/
def decodeCandidate (b : List Byte) : Res := (State.reset.load b).decodeFrame.res

/-- The reference caller's fallback (R166), a policy of the host and not of the block: offer the bytes directly, and
extract candidates from them only if that decode fails. -/
def fallbackCandidates (b : List Byte) : List (List Byte) :=
  if (decodeCandidate b).status = statusOk then [b] else extractFrames b

end Sys2Proof.Machine
end

