-- ==== Sys2Proof/Machine/Report.lean ====
section
/-! DEFINITION. The report of a result: the name tables of R25, the text of an enumerated code (R130 to R132), the value
kinds of R154, the order of the 21 entries (R27, R151) and the per-frame report of R152. -/

namespace Sys2Proof.Machine

/-- `MODE_NAME[0..4]` (R25, R130). -/
def modeNames : List String := ["AUTO", "COOL", "DRY", "FAN", "HEAT"]

/-- `DISP_NAME[0..3]` (R25, R132). -/
def displayNames : List String := ["AUTO", "SET", "ACT", "OUT"]

/-- The text of an enumerated code: its name, or `UNKNOWN(<code>)` in decimal (R131). -/
def codeText (names : List String) (code : Nat) : String :=
  match names[code]? with
  | some name => name
  | none => "UNKNOWN(" ++ Nat.repr code ++ ")"

/-- The two directional notes (R138): for SET frames the firmware convention inverts the raw bit, for REPORT frames raw
bit 1 means the beeper is enabled. -/
inductive BeeperNote where
  | setInverted
  | reportDirect
deriving DecidableEq, Repr

/-- The value kinds of a report (R154): string, integer (booleans are 0 or 1), number, the beeper's note, null. -/
inductive ReportValue where
  | text (t : String)
  | integer (i : Int)
  | number (r : Rat)
  | note (n : BeeperNote)
  | null
deriving DecidableEq, Repr

/-- An unsigned entry as a report value. -/
def unsignedValue {w : Nat} (f : Field w) : ReportValue :=
  if f.valid then .integer f.value.toNat else .null

/-- The `indoor_temp` entry as a report value: a nine-bit two's-complement number (R139). -/
def signedValue (f : Field 9) : ReportValue :=
  if f.valid then .integer f.value.toInt else .null

/-- The `mode` entry as a report value (R130, R131). -/
def modeValue (f : ModeField) : ReportValue :=
  if f.valid then .text (codeText modeNames f.code.toNat) else .null

/-- The `display_mode` entry as a report value (R132). -/
def displayValue (f : Field 2) : ReportValue :=
  if f.valid then .text (codeText displayNames f.value.toNat) else .null

/-- The `target_temp` entry as a report value (R135, R140: copied unchanged). -/
def tempValue (f : TempField) : ReportValue :=
  if f.valid then .number f.value else .null

/-- The `beeper_note` entry as a report value (R138). -/
def noteValue (f : Field 1) : ReportValue :=
  if f.valid then .note (if f.value = 1 then .setInverted else .reportDirect) else .null

/-- The 21 entries with their names, in the order of R151. -/
def Fields.report (f : Fields) : List (String × ReportValue) :=
  [("power_bit_raw", unsignedValue f.powerBitRaw), ("mode", modeValue f.mode),
   ("target_temp_select", unsignedValue f.targetTempSelect), ("temp_table_select", unsignedValue f.tempTableSelect),
   ("target_temp", tempValue f.targetTemp)] ++
  [("fan_speed", unsignedValue f.fanSpeed), ("fan_speed_alt", unsignedValue f.fanSpeedAlt),
   ("fan_quiet", unsignedValue f.fanQuiet), ("fan_turbo", unsignedValue f.fanTurbo),
   ("vertical_swing", unsignedValue f.verticalSwing), ("horizontal_swing", unsignedValue f.horizontalSwing)] ++
  [("display_mode", displayValue f.displayMode), ("display_on", unsignedValue f.displayOn),
   ("display_fahrenheit", unsignedValue f.displayFahrenheit), ("plasma", unsignedValue f.plasma)] ++
  [("sleep", unsignedValue f.sleep), ("xfan", unsignedValue f.xfan), ("save_eco", unsignedValue f.saveEco),
   ("beeper_raw", unsignedValue f.beeperRaw), ("beeper_note", noteValue f.beeperNote),
   ("indoor_temp", signedValue f.indoorTemp)]

/-- The per-frame report (R152): command code, declared length, checksum validity, the raw payload, every field. -/
structure FrameReport where
  command : Byte
  length : Byte
  checksumOk : Bool
  payload : List Byte
  fields : List (String × ReportValue)
deriving DecidableEq, Repr

/-- The report of the result a state holds, if it holds one of a successful decode. -/
def State.frameReport (s : State) : Option FrameReport :=
  if s.resValid && decide (s.res.status = statusOk) then
    some ⟨s.res.command, s.res.length, s.res.checksumOk, s.payload, s.res.fields.report⟩
  else none

end Sys2Proof.Machine
end

