-- ==== Sys2Proof/Safety.lean ====
section
/-! DEFINITION. What claims are stated in: the invariant of the machine's states, the canonical form of a result, and
when a step is sure to go on. -/

namespace Sys2Proof.Machine

/-- An entry whose valid bit is 0 has value bits 0 (R27). -/
def Field.canonical {w : Nat} (f : Field w) : Bool := f.valid || f.value == 0

/-- The same for the `mode` entry, whose value bits are the code and `known` (R27); a valid entry has `known` exactly
for the codes 0..4 (R130). -/
def ModeField.canonical (f : ModeField) : Bool :=
  if f.valid then f.known == decide (f.code.toNat ≤ 4) else f.code == 0 && !f.known

/-- The same for the `target_temp` entry (R27). -/
def TempField.canonical (f : TempField) : Bool := f.valid || f.value == 0

/-- Every entry of the field part of `RES` is canonical. -/
def Fields.canonical (f : Fields) : Bool :=
  (f.powerBitRaw.canonical && f.mode.canonical && f.targetTempSelect.canonical && f.tempTableSelect.canonical &&
    f.targetTemp.canonical && f.fanSpeed.canonical && f.fanSpeedAlt.canonical) &&
  (f.fanQuiet.canonical && f.fanTurbo.canonical && f.verticalSwing.canonical && f.horizontalSwing.canonical &&
    f.displayMode.canonical && f.displayOn.canonical && f.displayFahrenheit.canonical) &&
  (f.plasma.canonical && f.sleep.canonical && f.xfan.canonical && f.saveEco.canonical && f.beeperRaw.canonical &&
    f.beeperNote.canonical && f.indoorTemp.canonical)

/-- The invariant every step keeps. The frame buffer list is canonical (R21); `N` is at most 258 (R21); every byte of
the current candidate has been loaded, so no free value can reach a result (R29, R30); entries are canonical (R27); a
result that is not OK is 0 but for its status (R153); while `RES_VALID = 1`, `RES` is `DECODE_FRAME` of the loaded
candidate (R23, R31). -/
structure State.Inv (s : State) : Prop where
  memoryCanonical : Memory.wf s.fb = true
  lengthLegal : s.n.toNat ≤ Config.nMax
  candidateLoaded : ∀ a < s.n.toNat, (Memory.read s.fb a).isSome = true
  entriesCanonical : s.res.fields.canonical = true
  errorIsBare : s.res.status ≠ statusOk → s.res = Res.ofStatus s.res.status
  resultDescribesCandidate : s.resValid = true → s.res = s.decodeFrame.res

/-- A host request that the block performs (R30, R40; 93_implementation_defined.md U10): reading `RES` needs
`RES_VALID = 1`, reading a frame byte an index below `N`, and a row request (the model's own port, log entry 5) both
`RES_VALID = 1` and the bytes of a row. Loading, starting and resetting are always performed: "no candidate is illegal"
(R167). -/
def State.performs (s : State) : HostOp → Prop
  | .load _ | .start | .reset => True
  | .read => s.resValid = true
  | .readFrame a => a < s.n.toNat
  | .row w => s.resValid = true ∧ ∃ i, decodeRow w = .ok i

end Sys2Proof.Machine
end

