-- ==== Sys2Proof/Certificates/Slice0/Obligations.lean ====
section
/-! DEFINITION. The statements about the model, for the provers. Each docstring names the rule of spec/ it formalises, or
says that a clause is the model's own choice and which log entry (notes/assumptions) declares it. -/

open Sys2Proof Sys2Proof.Machine

namespace Sys2Proof.Claims

/-! ### Words the statements use -/

/-- Bit `k` of a byte as a one-bit value. -/
def bit (b : Byte) (k : Nat) : BitVec 1 := BitVec.ofBool (b.getLsbD k)

/-- An entry whose payload offset is `off`: the value if the payload reaches it, else `NOVALUE` (R27, R101). -/
def entry {w : Nat} (plen off : Nat) (v : BitVec w) : Field w :=
  if off < plen then ⟨true, v⟩ else ⟨false, 0⟩

/-- The `mode` entry of a byte (R130). -/
def modeEntry (plen : Nat) (b : Byte) : ModeField :=
  if 4 < plen then ⟨true, b.extractLsb' 4 3, decide ((b.extractLsb' 4 3).toNat ≤ 4)⟩ else ⟨false, 0, false⟩

/-- It was the decoder's turn in `s` (its step enabled and no reset pending to abandon it), the step left `t`, and its
result is OK. -/
def Decoded (s t : State) : Prop :=
  s.decoderTurn = true ∧ step s = .next t ∧ t.res.status = 0

/-- Everything but the frame-level and field part of `RES` and `RES_VALID` is the same, and every frame byte reads as
before. -/
def SameOutsideResult (s t : State) : Prop :=
  (∀ a, t.fbByte a = s.fbByte a) ∧ t.fb = s.fb ∧ t.n = s.n ∧ t.start = s.start ∧ t.requests = s.requests ∧
    t.out = s.out ∧ t.resets = s.resets

/-- The frame-level part of `RES` is the same. -/
def SameHeader (r q : Res) : Prop :=
  q.status = r.status ∧ q.length = r.length ∧ q.command = r.command ∧ q.direction = r.direction ∧
    q.payloadLen = r.payloadLen ∧ q.checksum = r.checksum ∧ q.checksumOk = r.checksumOk

/-- The result of a decode that passes step 5 with a payload of `k` bytes, taken in a direction with a command byte (R152),
with the checksum of R85 and R86 in the integers. -/
def passResult (s : State) (dir : Direction) (command : Byte) (k : Nat) : Res where
  status := 0
  length := s.fbByte 2
  command := command
  direction := if dir = .set then 1 else 0
  payloadLen := BitVec.ofNat 8 k
  checksum := s.fbByte (4 + k)
  checksumOk := decide (((s.fbByte 2).toNat + command.toNat +
    ((List.range k).map fun j => (s.fbByte (4 + j)).toNat).sum) % 256 = (s.fbByte (4 + k)).toNat)
  fields := decodePayload ((List.range k).map fun j => s.fbByte (4 + j)) dir

/-- `plen` of the loaded candidate, an integer (R83, R88). -/
def plenOf (s : State) : Int :=
  if s.fbByte 3 = 0x01#8 then 45 else (s.fbByte 2).toNat - 2

/-- The direction of the loaded candidate (R83). -/
def dirOf (s : State) : Direction := if s.fbByte 3 = 0x01#8 then .set else .report

/-- `RES` after a decode, from `N` and the frame bytes, step by step as R80 lists it: the three errors in their order
with their codes (R180), or the result of R152. -/
def frameResult (s : State) : Res :=
  if s.n.toNat < 5 then Res.ofStatus 1
  else if s.fbByte 0 ≠ 0x7E#8 ∨ s.fbByte 1 ≠ 0x7E#8 then Res.ofStatus 2
  else if plenOf s < 0 ∨ (s.n.toNat : Int) < 5 + plenOf s then Res.ofStatus 3
  else passResult s (dirOf s) (s.fbByte 3) (plenOf s).toNat

/-- Run a list of operations one after another, stopping at the first that does not answer a next state. -/
def runAll : List Instr → State → Result
  | [], s => .next s
  | i :: is, s =>
    match exec i s with
    | .next t => runAll is t
    | .fault r => .fault r
    | .refused r => .refused r

/-- The payload offsets the bit-layout table names, each with the union of its named masks (R68). -/
def namedBits : List (Nat × Byte) :=
  [(0, 0x04#8), (4, 0xFB#8), (5, 0xF0#8), (6, 0x0F#8), (7, 0xC0#8), (8, 0xF7#8), (9, 0x30#8), (11, 0x40#8),
   (16, 0x08#8), (18, 0x0F#8), (40, 0x01#8), (42, 0xFF#8)]

/-- The valid bits of the 21 entries, each beside the smallest payload length that makes it valid (R101). -/
def thresholds (f : Fields) : List (Bool × Nat) :=
  [(f.powerBitRaw.valid, 5), (f.mode.valid, 5), (f.fanSpeedAlt.valid, 5), (f.sleep.valid, 5),
   (f.targetTempSelect.valid, 6), (f.fanTurbo.valid, 7), (f.displayOn.valid, 7), (f.plasma.valid, 7), (f.xfan.valid, 7),
   (f.tempTableSelect.valid, 8), (f.displayFahrenheit.valid, 8), (f.targetTemp.valid, 8)] ++
  [(f.verticalSwing.valid, 9), (f.horizontalSwing.valid, 9), (f.displayMode.valid, 10), (f.saveEco.valid, 12),
   (f.fanQuiet.valid, 17), (f.fanSpeed.valid, 19), (f.beeperRaw.valid, 41), (f.indoorTemp.valid, 43),
   (f.beeperNote.valid, 0)]

/-- The texts of the eight mode codes (R130, R131). -/
def modeTexts : List String :=
  ["AUTO", "COOL", "DRY", "FAN", "HEAT", "UNKNOWN(5)", "UNKNOWN(6)", "UNKNOWN(7)"]

/-- The texts of the four display-mode codes (R132). -/
def displayTexts : List String := ["AUTO", "SET", "ACT", "OUT"]

/-- A hex digit's character, upper case. -/
def hexChar (d : Nat) : Char := Char.ofNat (if d < 10 then 48 + d else 55 + d)

/-- A byte as two hex digits followed by a separator. -/
def hexPair (b : Byte) (sep : List Char) : List Char :=
  hexChar (b.toNat / 16) :: hexChar (b.toNat % 16) :: sep

end Sys2Proof.Claims

open Sys2Proof.Claims

/-! ### Encoding -/

/-- Words written out from R62 and R66 decode to the operation they stand for (a sanity statement). That a ROM word is
spelled as three bytes, lowest bits first, is the model's choice (log entry 5). -/
def Obligations.SpecWordsDecodeToTheirRows : Prop :=
  decode [0x01#8] = .ok .frameSet ∧ decode [0x31#8] = .ok .frameReport ∧ decode [0x44#8] = .ok (.frameOther 0x44#8) ∧
  decode [0x80#8, 0x03#8, 0x12#8] = .ok .fxPower ∧ decode [0x10#8, 0xC2#8, 0x11#8] = .ok .fxMode ∧
  decode [0x08#8, 0x3C#8, 0x48#8] = .ok .fxFan ∧ decode [0x04#8, 0x10#8, 0x18#8] = .ok .fxPlasma ∧
  decode [0x38#8, 0x04#8, 0xA0#8] = .ok .fxBeep ∧ decode [0x30#8, 0xFC#8, 0xAB#8] = .ok .fxItemp

/-- Decoding the encoding of a well-formed instruction gives it back (R62, R65, R66). For LK.TTEMP and NOTE.BEEP the
encoding is the model's own selector (log entry 6); the byte order of a ROM word is the model's choice (log entry 5). -/
def Obligations.DecodeOfEncodeIsTheInstruction : Prop :=
  ∀ i : Instr, i.wf = true → decode (encode i) = .ok i

/-- Every byte string the decoder accepts is the encoding of the one well-formed instruction it answers: no two strings
mean the same operation, and no unlisted string is accepted (R62, R66; selectors: log entry 6; byte order of a ROM word: log entry 5). -/
def Obligations.AcceptedBytesAreTheEncoding : Prop :=
  ∀ (bs : List Byte) (i : Instr), decode bs = .ok i → encode i = bs ∧ i.wf = true

/-- A 24-bit word is accepted exactly when it is the packed descriptor of a row of the table, and it then means that
row; the packing puts off, mask, shift, interp and cont at R65's bit positions, with bits [1:0] zero. -/
def Obligations.DescriptorWordsFollowThePacking : Prop :=
  (∀ (w : RomWord) (i : Instr), decodeDescriptor w = .ok i ↔ ∃ d, descriptorOf i = some d ∧ d.pack = w) ∧
  (∀ d : Descriptor, d.pack.extractLsb' 18 6 = d.off ∧ d.pack.extractLsb' 10 8 = d.mask ∧
    d.pack.extractLsb' 7 3 = d.shift ∧ d.pack.extractLsb' 3 4 = d.interp.code ∧
    d.pack.getLsbD 2 = d.cont ∧ d.pack.extractLsb' 0 2 = 0#2)

/-- The command selector (R62): exactly three cases, the default tried last; the direction is SET exactly for `0x01`, and
`plen` is 45 for SET and `length - 2`, in the integers, otherwise. -/
def Obligations.CommandByteSelectsOneOfThreeCases : Prop :=
  ∀ c : Byte,
    (decodeCommand c = .frameSet ↔ c = 0x01#8) ∧ (decodeCommand c = .frameReport ↔ c = 0x31#8) ∧
    (∀ d, decodeCommand c = .frameOther d ↔ (c ≠ 0x01#8 ∧ c ≠ 0x31#8 ∧ d = c)) ∧
    (directionOf c = .set ↔ c = 0x01#8) ∧
    ∀ len : Byte, payloadLength (directionOf c) len = if c = 0x01#8 then 45 else (len.toNat : Int) - 2

/-! ### The step -/

/-- A step runs the decoded operation. Decoder: when it is its turn and steps 1 and 2 of DECODE_FRAME pass, the step is
`exec` of what the command byte `FB[3]` decodes to, with the enable consumed. Row request (the model's own port, log
entry 5): with no step enabled and a successful result in RES, the step is `exec` of what the request's bytes decode to,
with the request taken. -/
def Obligations.StepRunsTheDecodedInstruction : Prop :=
  (∀ (s : State) (i : Instr), s.decoderTurn = true → 5 ≤ s.n.toNat → s.fbByte 0 = 0x7E#8 → s.fbByte 1 = 0x7E#8 →
    decode [s.fbByte 3] = .ok i → step s = exec i { s with start := false }) ∧
  (∀ (s : State) (w : List Byte) (rest : List HostOp) (i : Instr), s.start = false → s.requests = .row w :: rest →
    s.resValid = true → s.res.status = 0 → decode w = .ok i → i.format ≠ .command →
    step s = exec i { s with requests := rest })

/-- The decoder's step is DECODE_FRAME (R80): from every state in which it is the decoder's turn it completes, writes `RES`
whole as R80 to R86, R152 and R153 say from `N` and the frame bytes, sets `RES_VALID`, consumes the enable, and changes
nothing else. -/
def Obligations.DecoderStepIsDecodeFrame : Prop :=
  ∀ s : State, s.decoderTurn = true →
    step s = .next { s with start := false, resValid := true, res := frameResult s }

/-- R31: the step changes neither `FB` nor `N`, and a second START without a LOAD recomputes the same `RES`. -/
def Obligations.SecondStartRecomputesTheSameResult : Prop :=
  ∀ s t : State, s.decoderTurn = true → step s = .next t →
    (∀ a, t.fbByte a = s.fbByte a) ∧ t.n = s.n ∧ t.resValid = true ∧
    ∃ u, step { t with start := true } = .next u ∧ u.res = t.res ∧ u.resValid = true

/-- R155 and R29: `RES` after a decode is a function of `N` and `FB[0 .. N-1]` alone: not of the previous `RES`, of bytes at
or above `N`, of pending requests, or of how many decodes or resets came before. -/
def Obligations.ResultDependsOnTheCandidateAlone : Prop :=
  ∀ s₁ s₂ t₁ t₂ : State, s₁.decoderTurn = true → s₂.decoderTurn = true → s₁.n = s₂.n →
    (∀ a < s₁.n.toNat, s₁.fbByte a = s₂.fbByte a) →
    step s₁ = .next t₁ → step s₂ = .next t₂ → t₁.res = t₂.res

/-- R42: a candidate with `N > 5 + plen` decodes exactly as its first `5 + plen` bytes do. -/
def Obligations.BytesAboveTheChecksumAreIgnored : Prop :=
  ∀ s t : State, Decoded s t →
    ∃ u, step { s with n := BitVec.ofNat 9 (5 + t.res.payloadLen.toNat) } = .next u ∧ u.res = t.res

/-- R89: when a decode produces status OK. -/
def Obligations.DecodeSucceedsExactlyWhen : Prop :=
  ∀ s t : State, s.decoderTurn = true → step s = .next t →
    (t.res.status = 0 ↔
      5 ≤ s.n.toNat ∧ s.fbByte 0 = 0x7E#8 ∧ s.fbByte 1 = 0x7E#8 ∧
        ((s.fbByte 3 = 0x01#8 ∧ 50 ≤ s.n.toNat) ∨
         (s.fbByte 3 ≠ 0x01#8 ∧ 2 ≤ (s.fbByte 2).toNat ∧ (s.fbByte 2).toNat + 3 ≤ s.n.toNat)))

/-- R186 and R180: the one status reported is the first hard-error condition that holds, in the order FrameTooShort (1),
MissingSync (2), FrameTruncated (3). -/
def Obligations.FirstErrorConditionIsReported : Prop :=
  ∀ s t : State, s.decoderTurn = true → step s = .next t →
    let tooShort := s.n.toNat < 5
    let noSync := s.fbByte 0 ≠ 0x7E#8 ∨ s.fbByte 1 ≠ 0x7E#8
    let truncated := plenOf s < 0 ∨ (s.n.toNat : Int) < 5 + plenOf s
    (t.res.status = 1 ↔ tooShort) ∧ (t.res.status = 2 ↔ ¬ tooShort ∧ noSync) ∧
    (t.res.status = 3 ↔ ¬ tooShort ∧ ¬ noSync ∧ truncated)

/-- R187 and R153: a hard error leaves `RES.status` with its code and every other field of `RES` 0, sets `RES_VALID`, and
touches neither `FB` nor `N`. -/
def Obligations.HardErrorLeavesOnlyItsCode : Prop :=
  ∀ s t : State, s.decoderTurn = true → step s = .next t → t.res.status ≠ 0 →
    t.res = Res.ofStatus t.res.status ∧ t.res.fields = Fields.zero ∧ t.res.payloadLen = 0 ∧ t.res.command = 0 ∧
    t.resValid = true ∧ t.fb = s.fb ∧ t.n = s.n

/-- R86 with R85: on a completed decode `checksum_ok` is the comparison of the checksum byte with
`(length + command + sum of the payload) mod 256`, and a mismatch stops nothing: it is reported beside all fields. -/
def Obligations.ChecksumVerdictIsTheModularSum : Prop :=
  ∀ s t : State, Decoded s t →
    (t.res.checksumOk = true ↔
      ((s.fbByte 2).toNat + (s.fbByte 3).toNat + (t.payload.map BitVec.toNat).sum) % 256 = t.res.checksum.toNat) ∧
    t.res.checksum = s.fbByte (4 + t.res.payloadLen.toNat) ∧
    t.res.fields = decodePayload t.payload (directionOf (s.fbByte 3))

/-- R45, its last sentence: the checksum is a sum, so the order of the payload bytes does not affect it. -/
def Obligations.ChecksumIgnoresPayloadOrder : Prop :=
  ∀ (p q : List Byte) (len cmd : Byte), p.Perm q → checksumCalc len cmd p = checksumCalc len cmd q

/-! ### The three command cases -/

/-- FRAME.SET completes (R90): with the sync bytes and at least 50 bytes it leaves the whole result for `plen = 45`,
whatever the length byte; all 19 fields are valid. That the operation carries its command byte is log entry 11. -/
def Obligations.FrameSetCompletes : Prop :=
  ∀ s : State, 50 ≤ s.n.toNat → s.fbByte 0 = 0x7E#8 → s.fbByte 1 = 0x7E#8 →
    exec .frameSet s = .next { s with res := passResult s .set 0x01#8 45, resValid := true } ∧
    (thresholds (passResult s .set 0x01#8 45).fields).all (fun v => v.1) = true

/-- FRAME.SET with 5 to 49 bytes is FrameTruncated (R90, R84), and so is a non-SET case whose length byte is 0 or 1 or
whose candidate is shorter than `length + 3` (R91, R92, R84): the error's entry of R187. -/
def Obligations.CommandCasesTruncate : Prop :=
  ∀ s : State, 5 ≤ s.n.toNat → s.fbByte 0 = 0x7E#8 → s.fbByte 1 = 0x7E#8 →
    (s.n.toNat < 50 → exec .frameSet s = .next { s with res := Res.ofStatus 3, resValid := true }) ∧
    (((s.fbByte 2).toNat < 2 ∨ s.n.toNat < (s.fbByte 2).toNat + 3) →
      exec .frameReport s = .next { s with res := Res.ofStatus 3, resValid := true } ∧
      ∀ c, exec (.frameOther c) s = .next { s with res := Res.ofStatus 3, resValid := true })

/-- The errors of steps 1 and 2 in the command cases (R81, R82, R153): with fewer than 5 bytes each case is FrameTooShort, and
with at least 5 bytes and a wrong sync byte each is MissingSync, with the error's entry of R187. -/
def Obligations.CommandCasesReportTheEarlyErrors : Prop :=
  ∀ (i : Instr) (s : State), i.format = .command →
    (s.n.toNat < 5 → exec i s = .next { s with res := Res.ofStatus 1, resValid := true }) ∧
    (5 ≤ s.n.toNat → s.fbByte 0 ≠ 0x7E#8 ∨ s.fbByte 1 ≠ 0x7E#8 →
      exec i s = .next { s with res := Res.ofStatus 2, resValid := true })

/-- FRAME.REPORT and FRAME.OTHER complete (R91, R92): with the sync bytes, `length >= 2` and at least `length + 3` bytes
they leave the whole result for `plen = length - 2` in direction REPORT; FRAME.OTHER is the same but for the command
byte it carries (log entry 11). -/
def Obligations.FrameReportAndOtherComplete : Prop :=
  ∀ s : State, s.fbByte 0 = 0x7E#8 → s.fbByte 1 = 0x7E#8 → 2 ≤ (s.fbByte 2).toNat →
    (s.fbByte 2).toNat + 3 ≤ s.n.toNat →
    exec .frameReport s =
      .next { s with res := passResult s .report 0x31#8 ((s.fbByte 2).toNat - 2), resValid := true } ∧
    ∀ c, exec (.frameOther c) s =
      .next { s with res := passResult s .report c ((s.fbByte 2).toNat - 2), resValid := true }

/-- Frame of the three command cases (R31, R48, R187): no frame byte, not `N`, and nothing outside `RES` and `RES_VALID`
changes, on every path. -/
def Obligations.CommandCasesWriteOnlyTheResult : Prop :=
  ∀ (i : Instr) (s t : State), (i = .frameSet ∨ i = .frameReport ∨ ∃ c, i = .frameOther c) →
    exec i s = .next t → SameOutsideResult s t ∧ t.resValid = true

/-! ### The field operations on their own -/

/-- The rows of payload byte 4 complete: FX.POWER, FX.SLEEP, FX.FAN2, FX.MODE (R104, R114, R106, R130) write their entry and
nothing else. That `plen` is read from `RES.payload_len` is log entry 10. -/
def Obligations.RowsOfByteFourComplete : Prop :=
  ∀ s : State, let b := s.fbByte 8; let plen := s.res.payloadLen.toNat
    exec .fxPower s = .next (s.withFields { s.res.fields with powerBitRaw := entry plen 4 (bit b 7) }) ∧
    exec .fxSleep s = .next (s.withFields { s.res.fields with sleep := entry plen 4 (bit b 3) }) ∧
    exec .fxFan2 s = .next (s.withFields { s.res.fields with fanSpeedAlt := entry plen 4 (b.extractLsb' 0 2) }) ∧
    exec .fxMode s = .next (s.withFields { s.res.fields with mode := modeEntry plen b })

/-- The rows of payload byte 6 complete: FX.TURBO, FX.DON, FX.XFAN (R108, R111, R115), and the two rows of `plasma`, whose
value is the OR of bit 2 of bytes 6 and 0 and needs both (R113; that each of the two rows computes the whole field is log
entry 8; that `plen` is read from `RES.payload_len` is log entry 10). -/
def Obligations.RowsOfByteSixComplete : Prop :=
  ∀ s : State, let b := s.fbByte 10; let plen := s.res.payloadLen.toNat
    exec .fxTurbo s = .next (s.withFields { s.res.fields with fanTurbo := entry plen 6 (bit b 0) }) ∧
    exec .fxDon s = .next (s.withFields { s.res.fields with displayOn := entry plen 6 (bit b 1) }) ∧
    exec .fxXfan s = .next (s.withFields { s.res.fields with xfan := entry plen 6 (bit b 3) }) ∧
    exec .fxPlasma s =
      .next (s.withFields { s.res.fields with plasma := entry plen 6 (bit b 2 ||| bit (s.fbByte 4) 2) }) ∧
    exec .fxPlasma2 s =
      .next (s.withFields { s.res.fields with plasma := entry plen 6 (bit b 2 ||| bit (s.fbByte 4) 2) })

/-- The rows of payload bytes 5, 7, 8 and 9 complete: FX.TSEL, FX.TTAB, FX.DUNITF, FX.VSWING, FX.HSWING, FX.DMODE (R133, R134,
R112, R109, R110, R132). That `plen` is read from `RES.payload_len` is log entry 10. -/
def Obligations.RowsOfBytesFiveToNineComplete : Prop :=
  ∀ s : State, let plen := s.res.payloadLen.toNat
    exec .fxTsel s =
      .next (s.withFields { s.res.fields with targetTempSelect := entry plen 5 ((s.fbByte 9).extractLsb' 4 4) }) ∧
    exec .fxTtab s =
      .next (s.withFields { s.res.fields with tempTableSelect := entry plen 7 (bit (s.fbByte 11) 6) }) ∧
    exec .fxDunitf s =
      .next (s.withFields { s.res.fields with displayFahrenheit := entry plen 7 (bit (s.fbByte 11) 7) }) ∧
    exec .fxVswing s =
      .next (s.withFields { s.res.fields with verticalSwing := entry plen 8 ((s.fbByte 12).extractLsb' 4 4) }) ∧
    exec .fxHswing s =
      .next (s.withFields { s.res.fields with horizontalSwing := entry plen 8 ((s.fbByte 12).extractLsb' 0 3) }) ∧
    exec .fxDmode s =
      .next (s.withFields { s.res.fields with displayMode := entry plen 9 ((s.fbByte 13).extractLsb' 4 2) })

/-- The rows of the higher payload bytes complete: FX.SAVE, FX.QUIET, FX.FAN, FX.BEEP (R116, R107, R105, R137). That `plen` is
read from `RES.payload_len` is log entry 10. -/
def Obligations.RowsOfHighBytesComplete : Prop :=
  ∀ s : State, let plen := s.res.payloadLen.toNat
    exec .fxSave s = .next (s.withFields { s.res.fields with saveEco := entry plen 11 (bit (s.fbByte 15) 6) }) ∧
    exec .fxQuiet s = .next (s.withFields { s.res.fields with fanQuiet := entry plen 16 (bit (s.fbByte 20) 3) }) ∧
    exec .fxFan s =
      .next (s.withFields { s.res.fields with fanSpeed := entry plen 18 ((s.fbByte 22).extractLsb' 0 4) }) ∧
    exec .fxBeep s = .next (s.withFields { s.res.fields with beeperRaw := entry plen 40 (bit (s.fbByte 44) 0) })

/-- FX.ITEMP completes (R139): the byte minus 16 in the integers, -16 to 239, in nine-bit two's complement. That `plen` is
read from `RES.payload_len` is log entry 10. -/
def Obligations.IndoorTempRowCompletes : Prop :=
  ∀ s : State, ∃ f : Field 9, exec .fxItemp s = .next (s.withFields { s.res.fields with indoorTemp := f }) ∧
    (42 < s.res.payloadLen.toNat → f.valid = true ∧ f.value.toInt = ((s.fbByte 46).toNat : Int) - 16) ∧
    (s.res.payloadLen.toNat ≤ 42 → f = ⟨false, 0⟩)

/-- LK.TTEMP and NOTE.BEEP complete (R135, R138): the lookup reads the two entries of RES and gives the selected table's entry
when both are valid, else NOVALUE; the note is the direction bit and always valid. That both read RES is log entry 10. -/
def Obligations.LookupAndNoteComplete : Prop :=
  ∀ s : State,
    exec .lkTtemp s = .next (s.withFields { s.res.fields with
      targetTemp :=
        if s.res.fields.targetTempSelect.valid = true ∧ s.res.fields.tempTableSelect.valid = true then
          ⟨true, if s.res.fields.tempTableSelect.value = 1 then tempB s.res.fields.targetTempSelect.value.toNat
            else tempA s.res.fields.targetTempSelect.value.toNat⟩
        else ⟨false, 0⟩ }) ∧
    exec .noteBeep s = .next (s.withFields { s.res.fields with beeperNote := ⟨true, s.res.direction⟩ })

/-- Frame of the field operations (R48, R117): no operation but a command case changes a frame byte, `N`, `RES_VALID`, the
frame-level part of RES, or anything outside RES. -/
def Obligations.FieldOperationsWriteOnlyEntries : Prop :=
  ∀ (i : Instr) (s t : State), i.format ≠ .command → exec i s = .next t →
    SameOutsideResult s t ∧ SameHeader s.res t.res ∧ t.resValid = s.resValid

/-- R117 and R204: the descriptor rows and NOTE.BEEP may run in any order: any two of them commute in every state. R117
counts `plasma` as one row; that its two table rows, which write the same entry, commute rests on log entry 8 (each
computes the whole field). -/
def Obligations.FieldOperationsCommute : Prop :=
  ∀ i ∈ Instr.noteBeep :: Instr.descriptorRows, ∀ j ∈ Instr.noteBeep :: Instr.descriptorRows, ∀ s : State,
    runAll [i, j] s = runAll [j, i] s

/-- R150: DECODE_PAYLOAD is all rows, then LK.TTEMP and NOTE.BEEP: running them one by one on a state gives the entries
of `decodePayload` on its payload and direction. That rows run on their own read the payload and direction that RES
describes is the model's (log entry 10), and so is FX.PLASMA.2 as a further row that computes the whole field (log
entry 8). -/
def Obligations.RowsInTurnGiveDecodePayload : Prop :=
  ∀ (s : State) (dir : Direction), s.res.direction = directionBit dir →
    runAll (Instr.descriptorRows ++ [.lkTtemp, .noteBeep]) s = .next (s.withFields (decodePayload s.payload dir))

/-! ### The result record -/

/-- The boolean fields of a successful decode (R104, R107, R108, R111 to R116): each is the named bit of its payload byte, read
at frame index 4 + offset, valid exactly when the payload reaches it; `plasma` is the OR of its two bits and needs
both bytes. -/
def Obligations.DecodedBooleanFields : Prop :=
  ∀ s t : State, Decoded s t → let f := t.res.fields; let plen := t.res.payloadLen.toNat
    f.powerBitRaw = entry plen 4 (bit (s.fbByte 8) 7) ∧ f.sleep = entry plen 4 (bit (s.fbByte 8) 3) ∧
    f.fanTurbo = entry plen 6 (bit (s.fbByte 10) 0) ∧ f.displayOn = entry plen 6 (bit (s.fbByte 10) 1) ∧
    f.xfan = entry plen 6 (bit (s.fbByte 10) 3) ∧ f.displayFahrenheit = entry plen 7 (bit (s.fbByte 11) 7) ∧
    f.saveEco = entry plen 11 (bit (s.fbByte 15) 6) ∧ f.fanQuiet = entry plen 16 (bit (s.fbByte 20) 3) ∧
    f.plasma = entry plen 6 (bit (s.fbByte 10) 2 ||| bit (s.fbByte 4) 2)

/-- The integer and index fields of a successful decode (R105, R106, R109, R110, R133). -/
def Obligations.DecodedIntegerFields : Prop :=
  ∀ s t : State, Decoded s t → let f := t.res.fields; let plen := t.res.payloadLen.toNat
    f.fanSpeed = entry plen 18 ((s.fbByte 22).extractLsb' 0 4) ∧
    f.fanSpeedAlt = entry plen 4 ((s.fbByte 8).extractLsb' 0 2) ∧
    f.verticalSwing = entry plen 8 ((s.fbByte 12).extractLsb' 4 4) ∧
    f.horizontalSwing = entry plen 8 ((s.fbByte 12).extractLsb' 0 3) ∧
    f.targetTempSelect = entry plen 5 ((s.fbByte 9).extractLsb' 4 4)

/-- The enumerated fields of a successful decode (R130, R132): code, `known`, and the names; R131: a mode code without a name
is written `UNKNOWN(<code>)` in decimal. -/
def Obligations.DecodedEnumerations : Prop :=
  ∀ s t : State, Decoded s t → let f := t.res.fields; let plen := t.res.payloadLen.toNat
    f.mode = modeEntry plen (s.fbByte 8) ∧
    f.displayMode = entry plen 9 ((s.fbByte 13).extractLsb' 4 2) ∧
    (4 < plen → modeValue f.mode = .text (modeTexts[((s.fbByte 8).extractLsb' 4 3).toNat]?.getD "")) ∧
    (9 < plen → displayValue f.displayMode = .text (displayTexts[((s.fbByte 13).extractLsb' 4 2).toNat]?.getD ""))

/-- The target temperature of a successful decode (R134, R135): the entry of the table that bit 6 of payload byte 7 selects, at the
high nibble of payload byte 5, valid exactly when `plen >= 8`. -/
def Obligations.DecodedTargetTemperature : Prop :=
  ∀ s t : State, Decoded s t → let f := t.res.fields; let plen := t.res.payloadLen.toNat
    let i := (s.fbByte 9).toNat / 16
    f.tempTableSelect = entry plen 7 (bit (s.fbByte 11) 6) ∧
    (8 ≤ plen → f.targetTemp = ⟨true, if (s.fbByte 11).getLsbD 6 = true then tempB i else tempA i⟩) ∧
    (plen < 8 → f.targetTemp = ⟨false, 0⟩)

/-- The printed table entries (R8, R136): on any payload of at least 8 bytes, in both directions, select 4 with table A
reads 20, and selects 4, 9 and 14 with table B read the literal 0 as a valid value. -/
def Obligations.PrintedTemperatureEntries : Prop :=
  ∀ (p : List Byte) (dir : Direction) (b5 b7 : Byte), 8 ≤ p.length → p[5]? = some b5 → p[7]? = some b7 →
    (b5.toNat / 16 = 4 → b7.getLsbD 6 = false → (decodePayload p dir).targetTemp = ⟨true, 20⟩) ∧
    ((b5.toNat / 16 = 4 ∨ b5.toNat / 16 = 9 ∨ b5.toNat / 16 = 14) → b7.getLsbD 6 = true →
      (decodePayload p dir).targetTemp = ⟨true, 0⟩)

/-- The beeper of a successful decode: the raw bit as it stands in both directions (R137), and a note that is always valid and
is SET_INVERTED (1) exactly for a SET frame (R138, which the spec marks as its own decision D13). -/
def Obligations.DecodedBeeper : Prop :=
  ∀ s t : State, Decoded s t →
    t.res.fields.beeperRaw = entry t.res.payloadLen.toNat 40 (bit (s.fbByte 44) 0) ∧
    t.res.fields.beeperNote = ⟨true, if s.fbByte 3 = 0x01#8 then 1 else 0⟩ ∧
    (noteValue t.res.fields.beeperNote = .note .setInverted ↔ s.fbByte 3 = 0x01#8) ∧
    (noteValue t.res.fields.beeperNote = .note .reportDirect ↔ s.fbByte 3 ≠ 0x01#8)

/-- The indoor temperature of a successful decode (R139): payload byte 42 minus 16, between -16 and 239, valid exactly when
`plen >= 43`. No wrap-around and the nine-bit two's complement are what the spec marks as its own decision D12. -/
def Obligations.DecodedIndoorTemperature : Prop :=
  ∀ s t : State, Decoded s t →
    let f := t.res.fields.indoorTemp
    (43 ≤ t.res.payloadLen.toNat → f.valid = true ∧ f.value.toInt = ((s.fbByte 46).toNat : Int) - 16 ∧
      -16 ≤ f.value.toInt ∧ f.value.toInt ≤ 239) ∧
    (t.res.payloadLen.toNat < 43 → f = ⟨false, 0⟩)

/-- R101: an entry of DECODE_PAYLOAD is valid exactly when every byte it reads exists; the smallest payload length of
each of the 21 entries is its offset plus one (7 for `plasma`, 8 for `target_temp`, 0 for `beeper_note`). -/
def Obligations.EntryIsValidExactlyWhenItsBytesExist : Prop :=
  ∀ (p : List Byte) (dir : Direction), ∀ v ∈ thresholds (decodePayload p dir), (v.1 = true ↔ v.2 ≤ p.length)

/-- R27: an entry that is not valid has value bits 0, for every payload and direction; and a valid mode has `known` exactly
for codes 0 to 4. -/
def Obligations.InvalidEntriesAreZero : Prop :=
  ∀ (p : List Byte) (dir : Direction), (decodePayload p dir).canonical = true

/-- R68 and R69(b): no bit of the payload that the table does not name influences an entry: two payloads of one length that agree
on the named bits give the same entries. -/
def Obligations.UnnamedPayloadBitsAreIgnored : Prop :=
  ∀ (p q : List Byte) (dir : Direction), p.length = q.length →
    (∀ m ∈ namedBits, (p[m.1]?.getD 0) &&& m.2 = (q[m.1]?.getD 0) &&& m.2) →
    decodePayload p dir = decodePayload q dir

/-! ### The host's operations and reset (the queue of requests is the model's own, log entry 4) -/

/-- LOAD (R30, R9): the first 258 bytes go to FB from index 0, every other frame byte keeps its value, N is their number,
RES_VALID is cleared, and RES keeps what it held. -/
def Obligations.LoadStoresTheCandidate : Prop :=
  ∀ (s : State) (b : List Byte) (rest : List HostOp), s.start = false → s.requests = .load b :: rest →
    ∃ t, step s = .next t ∧ t.n.toNat = min 258 b.length ∧ t.resValid = false ∧ t.res = s.res ∧
      t.start = false ∧ t.requests = rest ∧ t.out = s.out ∧ t.resets = s.resets ∧
      (∀ i < min 258 b.length, some (t.fbByte i) = b[i]?) ∧ (∀ i, min 258 b.length ≤ i → t.fbByte i = s.fbByte i)

/-- READ (R30; 93_implementation_defined.md U10) hands over RES while RES_VALID = 1 and is refused otherwise; reading a frame
byte (R40) is defined exactly below N and faults otherwise. Neither changes the block. -/
def Obligations.ReadsAnswerOnlyWhatIsDefined : Prop :=
  ∀ (s : State) (rest : List HostOp), s.start = false →
    (s.requests = .read :: rest →
      (s.resValid = true → step s = .next { s with requests := rest, out := some (.result s.res) }) ∧
      (s.resValid = false → step s = .refused .resNotValid)) ∧
    (∀ a, s.requests = .readFrame a :: rest →
      (a < s.n.toNat → step s = .next { s with requests := rest, out := some (.byte (s.fbByte a)) }) ∧
      (s.n.toNat ≤ a → step s = .fault (.frameAddress a)))

/-- R200 and R32: a pending reset is performed at once in every state; where a decode is enabled it is abandoned, not
completed: the step leaves RES_VALID 0, N 0, RES all 0, FB unspecified anew (nothing listed, one more reset counted, log
entries 1 and 7) and no step enabled. The host's queue and its last read are kept (log entry 7). -/
def Obligations.ResetAbandonsAnEnabledDecode : Prop :=
  ∀ (s : State) (rest : List HostOp), s.requests = .reset :: rest →
    step s = .next { fb := [], n := 0, resValid := false, res := Res.ofStatus 0, start := false, requests := rest,
                     out := s.out, resets := s.resets + 1 }

/-- R200: "Reset is the only event besides LOAD and the decoder's step that writes any state": in states that meet the
invariant, a step that is not the decoder's, and whose oldest request is no LOAD and no reset, leaves FB, N, RES_VALID
and RES as they are; a row request (the model's own port, log entry 5) too. -/
def Obligations.OnlyLoadResetAndTheDecoderWriteState : Prop :=
  ∀ s t : State, s.Inv → step s = .next t → s.decoderTurn = false →
    (∀ b rest, s.requests ≠ .load b :: rest) → (∀ rest, s.requests ≠ .reset :: rest) →
    t.fb = s.fb ∧ t.n = s.n ∧ t.resValid = s.resValid ∧ t.res = s.res ∧ t.resets = s.resets

/-- R32 and R200: a reset leaves RES_VALID 0, N 0, RES all 0 and no step enabled, whatever came before, an enabled decode
too; a START straight after it decodes the empty candidate and yields FrameTooShort, unless a further reset pending
behind it abandons that decode. -/
def Obligations.StartAfterResetIsFrameTooShort : Prop :=
  ∀ (s : State) (rest : List HostOp), s.requests = .reset :: .start :: rest → (∀ later, rest ≠ .reset :: later) →
    ∃ r t u, step s = .next r ∧ r.resValid = false ∧ r.n = 0 ∧ r.res = Res.ofStatus 0 ∧ r.start = false ∧
      step r = .next t ∧ t.start = true ∧ step t = .next u ∧ u.resValid = true ∧ u.res = Res.ofStatus 1 ∧ u.n = 0 ∧
      u.requests = rest

/-- Every step that the block owes the host goes on (R31: "It always completes"; R167: "no candidate is illegal"): an enabled
decoder's step (or the reset that abandons it), an idle step, and every request the block performs answer a next state;
every other request stops. -/
def Obligations.StepGoesOnExactlyWhenPerformed : Prop :=
  ∀ s : State, (∃ t, step s = .next t) ↔
    (s.start = true ∨ s.requests = [] ∨ ∃ op rest, s.requests = op :: rest ∧ s.performs op)

/-- Whatever came before, `LOAD c`, `START` and `READ` hand the host the result of the candidate `c` alone, in four
steps (R155, R165, R30, R31). -/
def Obligations.HostGetsTheResultOfItsCandidate : Prop :=
  ∀ (s : State) (cand : List Byte) (rest : List HostOp), s.start = false →
    s.requests = .load cand :: .start :: .read :: rest →
    ∃ t, Sys2Proof.core.run 4 s = .next t ∧ t.out = some (.result (decodeCandidate cand)) ∧ t.requests = rest ∧
      t.start = false ∧ t.n.toNat = min 258 cand.length ∧ (∀ i < min 258 cand.length, some (t.fbByte i) = cand[i]?)

/-! ### Invariants -/

/-- The invariant holds in the reset state. -/
def Obligations.ResetMeetsTheInvariant : Prop := State.reset.Inv

/-- Headline: every step keeps the invariant: canonical frame buffer, N at most 258, the candidate's bytes all loaded, canonical
entries, a bare error result, and RES is DECODE_FRAME of the loaded candidate while RES_VALID = 1. -/
def Obligations.EveryStepKeepsTheInvariant : Prop :=
  ∀ s t : State, s.Inv → step s = .next t → t.Inv

/-- R32 and R203: the unspecified bytes of the frame buffer never reach a result: in states that meet the invariant the decoder's
step gives the same RES whatever the number of resets, and so whatever the free values are. -/
def Obligations.UnspecifiedBytesNeverReachAResult : Prop :=
  ∀ (s t u : State) (k : Nat), s.Inv → s.decoderTurn = true → step s = .next t →
    step { s with resets := k } = .next u → t.res = u.res

/-! ### The environment (44_env_extractor.md) -/

/-- R160: adjacent hex digits pair up from left to right: the text of a byte string, each byte two digits followed by any separator
without a hex digit (or none), is read back as those bytes. -/
def Obligations.HexTextIsReadBack : Prop :=
  ∀ (l : List (Byte × List Char)), (∀ e ∈ l, ∀ c ∈ e.2, hexVal c = none) →
    parseHex (l.flatMap fun e => hexPair e.1 e.2) = l.map Prod.fst

/-- R161 and R162: the extractor emits, in increasing order of position, exactly the candidates at sync pairs followed by a length byte
whose `3 + length` bytes fit. -/
def Obligations.ExtractorEmitsEveryCandidateInOrder : Prop :=
  ∀ b : List Byte, extractFrames b =
    (List.range b.length).filterMap fun i =>
      if b[i]? = some 0x7E#8 ∧ b[i + 1]? = some 0x7E#8 ∧ i + 2 < b.length ∧
          i + 3 + (b[i + 2]?.getD 0).toNat ≤ b.length then
        some ((b.drop i).take (3 + (b[i + 2]?.getD 0).toNat))
      else none

/-- R164(a): a buffer with no sync marker has no candidate. -/
def Obligations.NoSyncMarkerNoCandidate : Prop :=
  ∀ b : List Byte, (∀ i, ¬ (b[i]? = some 0x7E#8 ∧ b[i + 1]? = some 0x7E#8)) → extractFrames b = []

/-- R89 in its corrected form, with R163: an extracted candidate whose command is not SET decodes with status OK if its length
byte is at least 2, and is FrameTooShort if that is 0 or 1. -/
def Obligations.ExtractedCandidatesDecode : Prop :=
  ∀ b cand : List Byte, cand ∈ extractFrames b →
    ∀ len, cand[2]? = some len →
      (2 ≤ len.toNat → cand[3]? ≠ some 0x01#8 → (decodeCandidate cand).status = 0) ∧
      (len.toNat < 2 → (decodeCandidate cand).status = 1)
end

