-- ==== Sys2Proof/Laws/State.lean ====
section
/-! SUPPORT. One lemma for each field under each update of State, true by definition, and the same for the entries of RES
under the all-zero record, so that no later proof unfolds an update. -/

namespace Sys2Proof.Machine

@[simp] theorem State.withFields_fb (s : State) (f : Fields) : (s.withFields f).fb = s.fb := rfl
@[simp] theorem State.withFields_n (s : State) (f : Fields) : (s.withFields f).n = s.n := rfl
@[simp] theorem State.withFields_resValid (s : State) (f : Fields) : (s.withFields f).resValid = s.resValid := rfl
@[simp] theorem State.withFields_res (s : State) (f : Fields) : (s.withFields f).res = { s.res with fields := f } := rfl
@[simp] theorem State.withFields_start (s : State) (f : Fields) : (s.withFields f).start = s.start := rfl
@[simp] theorem State.withFields_requests (s : State) (f : Fields) : (s.withFields f).requests = s.requests := rfl
@[simp] theorem State.withFields_out (s : State) (f : Fields) : (s.withFields f).out = s.out := rfl
@[simp] theorem State.withFields_resets (s : State) (f : Fields) : (s.withFields f).resets = s.resets := rfl

@[simp] theorem State.finish_fb (s : State) (r : Res) : (s.finish r).fb = s.fb := rfl
@[simp] theorem State.finish_n (s : State) (r : Res) : (s.finish r).n = s.n := rfl
@[simp] theorem State.finish_resValid (s : State) (r : Res) : (s.finish r).resValid = true := rfl
@[simp] theorem State.finish_res (s : State) (r : Res) : (s.finish r).res = r := rfl
@[simp] theorem State.finish_start (s : State) (r : Res) : (s.finish r).start = s.start := rfl
@[simp] theorem State.finish_requests (s : State) (r : Res) : (s.finish r).requests = s.requests := rfl
@[simp] theorem State.finish_out (s : State) (r : Res) : (s.finish r).out = s.out := rfl
@[simp] theorem State.finish_resets (s : State) (r : Res) : (s.finish r).resets = s.resets := rfl

@[simp] theorem State.raise_fb (s : State) (e : HardError) : (s.raise e).fb = s.fb := rfl
@[simp] theorem State.raise_n (s : State) (e : HardError) : (s.raise e).n = s.n := rfl
@[simp] theorem State.raise_resValid (s : State) (e : HardError) : (s.raise e).resValid = true := rfl
@[simp] theorem State.raise_res (s : State) (e : HardError) : (s.raise e).res = Res.ofStatus e.code := rfl
@[simp] theorem State.raise_start (s : State) (e : HardError) : (s.raise e).start = s.start := rfl
@[simp] theorem State.raise_requests (s : State) (e : HardError) : (s.raise e).requests = s.requests := rfl
@[simp] theorem State.raise_out (s : State) (e : HardError) : (s.raise e).out = s.out := rfl
@[simp] theorem State.raise_resets (s : State) (e : HardError) : (s.raise e).resets = s.resets := rfl

@[simp] theorem State.load_fb (s : State) (b : List Byte) : (s.load b).fb = Memory.writeBytes s.fb 0 (b.take Config.nMax) := rfl
@[simp] theorem State.load_n (s : State) (b : List Byte) : (s.load b).n = BitVec.ofNat 9 (b.take Config.nMax).length := rfl
@[simp] theorem State.load_resValid (s : State) (b : List Byte) : (s.load b).resValid = false := rfl
@[simp] theorem State.load_res (s : State) (b : List Byte) : (s.load b).res = s.res := rfl
@[simp] theorem State.load_start (s : State) (b : List Byte) : (s.load b).start = s.start := rfl
@[simp] theorem State.load_requests (s : State) (b : List Byte) : (s.load b).requests = s.requests := rfl
@[simp] theorem State.load_out (s : State) (b : List Byte) : (s.load b).out = s.out := rfl
@[simp] theorem State.load_resets (s : State) (b : List Byte) : (s.load b).resets = s.resets := rfl

@[simp] theorem State.doReset_fb (s : State) : (s.doReset).fb = [] := rfl
@[simp] theorem State.doReset_n (s : State) : (s.doReset).n = 0 := rfl
@[simp] theorem State.doReset_resValid (s : State) : (s.doReset).resValid = false := rfl
@[simp] theorem State.doReset_res (s : State) : (s.doReset).res = Res.ofStatus 0 := rfl
@[simp] theorem State.doReset_start (s : State) : (s.doReset).start = false := rfl
@[simp] theorem State.doReset_requests (s : State) : (s.doReset).requests = s.requests := rfl
@[simp] theorem State.doReset_out (s : State) : (s.doReset).out = s.out := rfl
@[simp] theorem State.doReset_resets (s : State) : (s.doReset).resets = s.resets + 1 := rfl

@[simp] theorem Res.ofStatus_length (c : BitVec 2) : (Res.ofStatus c).length = 0 := rfl
@[simp] theorem Res.ofStatus_command (c : BitVec 2) : (Res.ofStatus c).command = 0 := rfl
@[simp] theorem Res.ofStatus_direction (c : BitVec 2) : (Res.ofStatus c).direction = 0 := rfl
@[simp] theorem Res.ofStatus_payloadLen (c : BitVec 2) : (Res.ofStatus c).payloadLen = 0 := rfl
@[simp] theorem Res.ofStatus_checksum (c : BitVec 2) : (Res.ofStatus c).checksum = 0 := rfl
@[simp] theorem Res.ofStatus_status (c : BitVec 2) : (Res.ofStatus c).status = c := rfl
@[simp] theorem Res.ofStatus_checksumOk (c : BitVec 2) : (Res.ofStatus c).checksumOk = false := rfl
@[simp] theorem Res.ofStatus_fields (c : BitVec 2) : (Res.ofStatus c).fields = Fields.zero := rfl

/-- A frame byte depends on the loaded cells and the reset count only. -/
theorem State.fbByte_congr {s t : State} (hf : t.fb = s.fb) (hr : t.resets = s.resets) (i : Nat) :
    t.fbByte i = s.fbByte i := by
  simp [State.fbByte, hf, hr]

@[simp] theorem State.withFields_fbByte (s : State) (f : Fields) (i : Nat) :
    (s.withFields f).fbByte i = s.fbByte i := rfl
@[simp] theorem State.finish_fbByte (s : State) (r : Res) (i : Nat) : (s.finish r).fbByte i = s.fbByte i := rfl
@[simp] theorem State.raise_fbByte (s : State) (e : HardError) (i : Nat) : (s.raise e).fbByte i = s.fbByte i := rfl

@[simp] theorem State.withFields_payload (s : State) (f : Fields) : (s.withFields f).payload = s.payload := rfl

@[simp] theorem State.withFields_twice (s : State) (f g : Fields) :
    (s.withFields f).withFields g = s.withFields g := rfl

end Sys2Proof.Machine
end

