-- ==== Sys2Proof/Laws/Memory.lean ====
section
/-! SUPPORT. The laws of the frame buffer: reading after a write, reading after a LOAD, and that every memory operation
keeps the canonical form. -/

namespace Sys2Proof.Machine

@[simp] theorem Memory.read_nil (a : Nat) : Memory.read [] a = none := rfl

theorem Memory.read_write_same (m : Memory) (a : Nat) (b : Byte) : (m.write a b).read a = some b := by
  induction m with
  | nil => simp [Memory.write, Memory.read]
  | cons c m ih =>
    obtain ⟨k, v⟩ := c
    unfold Memory.write
    split
    · simp [Memory.read]
    · split
      · simp [Memory.read]
      · have hk : ¬ k = a := fun h => by omega
        simp [Memory.read, hk, ih]

theorem Memory.read_write_other (m : Memory) (a : Nat) (b : Byte) {x : Nat} (hx : x ≠ a) :
    (m.write a b).read x = m.read x := by
  induction m with
  | nil => simp [Memory.write, Memory.read, Ne.symm hx]
  | cons c m ih =>
    obtain ⟨k, v⟩ := c
    unfold Memory.write
    split
    · simp [Memory.read, Ne.symm hx]
    · split
      · subst_vars
        simp [Memory.read, Ne.symm hx]
      · simp only [Memory.read, ih]

theorem Memory.read_writeBytes_below (bs : List Byte) : ∀ (m : Memory) (a x : Nat), x < a →
    (m.writeBytes a bs).read x = m.read x := by
  induction bs with
  | nil => intro m a x _; rfl
  | cons b bs ih =>
    intro m a x hx
    rw [Memory.writeBytes, ih _ _ _ (by omega), Memory.read_write_other _ _ _ (by omega)]

/-- What a byte string stored from index `a` leaves at an index: its own byte where it reaches, the old one elsewhere. -/
theorem Memory.read_writeBytes (bs : List Byte) : ∀ (m : Memory) (a x : Nat),
    (m.writeBytes a bs).read x =
      if a ≤ x ∧ x < a + bs.length then bs[x - a]? else m.read x := by
  induction bs with
  | nil => intro m a x; simp [Memory.writeBytes]
  | cons b bs ih =>
    intro m a x
    rw [Memory.writeBytes]
    rcases Nat.lt_trichotomy x a with h | h | h
    · rw [Memory.read_writeBytes_below _ _ _ _ (by omega), Memory.read_write_other _ _ _ (by omega)]
      rw [if_neg (by omega)]
    · subst h
      rw [Memory.read_writeBytes_below _ _ _ _ (by omega), Memory.read_write_same]
      rw [if_pos (by simp)]
      simp
    · rw [ih, Memory.read_write_other _ _ _ (by omega)]
      obtain ⟨d, rfl⟩ : ∃ d, x = a + 1 + d := ⟨x - (a + 1), by omega⟩
      have h1 : a + 1 + d - (a + 1) = d := by omega
      have h2 : a + 1 + d - a = d + 1 := by omega
      simp only [h1, h2, List.length_cons, List.getElem?_cons_succ]
      congr 1
      exact propext ⟨fun h => ⟨by omega, by omega⟩, fun h => ⟨by omega, by omega⟩⟩

theorem Memory.risingFrom_mono {m : Memory} {lo lo' : Nat} (h : lo' ≤ lo) (hm : Memory.risingFrom lo m = true) :
    Memory.risingFrom lo' m = true := by
  cases m with
  | nil => rfl
  | cons c m =>
    obtain ⟨k, v⟩ := c
    simp only [Memory.risingFrom, Bool.and_eq_true, decide_eq_true_eq] at hm ⊢
    exact ⟨by omega, hm.2⟩

theorem Memory.risingFrom_write (m : Memory) : ∀ (lo a : Nat) (b : Byte), lo ≤ a →
    Memory.risingFrom lo m = true → Memory.risingFrom lo (m.write a b) = true := by
  induction m with
  | nil => intro lo a b ha _; simp [Memory.write, Memory.risingFrom, ha]
  | cons c m ih =>
    obtain ⟨k, v⟩ := c
    intro lo a b ha hm
    simp only [Memory.risingFrom, Bool.and_eq_true, decide_eq_true_eq] at hm
    unfold Memory.write
    split
    · simp only [Memory.risingFrom, Bool.and_eq_true, decide_eq_true_eq]
      exact ⟨ha, by omega, hm.2⟩
    · split
      · subst_vars
        simp [Memory.risingFrom, ha, hm.2]
      · simp only [Memory.risingFrom, Bool.and_eq_true, decide_eq_true_eq]
        exact ⟨hm.1, ih _ _ _ (by omega) hm.2⟩

theorem Memory.all_write {p : Host.Cell → Bool} (m : Memory) (a : Nat) (b : Byte) (hm : m.all p = true)
    (hp : p (a, b) = true) : (m.write a b).all p = true := by
  induction m with
  | nil => simp [Memory.write, hp]
  | cons c m ih =>
    obtain ⟨k, v⟩ := c
    simp only [List.all_cons, Bool.and_eq_true] at hm
    unfold Memory.write
    split
    · simp [hp, hm.1, hm.2]
    · split
      · simp [hp, hm.2]
      · simp [hm.1, ih hm.2]

theorem Memory.wf_nil : Memory.wf [] = true := rfl

/-- A write inside the frame buffer keeps the canonical form. -/
theorem Memory.wf_write {m : Memory} {a : Nat} {b : Byte} (ha : a < Config.nMax) (hm : m.wf = true) :
    (m.write a b).wf = true := by
  simp only [Memory.wf, Bool.and_eq_true] at hm ⊢
  exact ⟨Memory.risingFrom_write _ _ _ _ (Nat.zero_le _) hm.1, Memory.all_write _ _ _ hm.2 (by simpa using ha)⟩

/-- A byte string that fits in the frame buffer keeps the canonical form. -/
theorem Memory.wf_writeBytes (bs : List Byte) : ∀ {m : Memory} {a : Nat}, a + bs.length ≤ Config.nMax →
    m.wf = true → (m.writeBytes a bs).wf = true := by
  induction bs with
  | nil => intro m a _ hm; exact hm
  | cons b bs ih =>
    intro m a ha hm
    simp only [List.length_cons] at ha
    exact ih (by omega) (Memory.wf_write (by omega) hm)

/-- LOAD keeps the canonical form, whatever the candidate's length. -/
theorem State.load_wf {s : State} (b : List Byte) (h : s.fb.wf = true) : (s.load b).fb.wf = true :=
  Memory.wf_writeBytes _ (by simp only [List.length_take]; omega) h

/-- `FB` after LOAD: the candidate's bytes, then what it held. -/
theorem State.load_fbByte (s : State) (b : List Byte) (i : Nat) :
    (s.load b).fbByte i = if i < (b.take Config.nMax).length then (b[i]?).getD 0 else s.fbByte i := by
  unfold State.fbByte
  rw [State.load_fb, Memory.read_writeBytes, State.load_resets]
  by_cases h : i < (b.take Config.nMax).length
  · have h1 : i < Config.nMax := by simp only [List.length_take] at h; omega
    have h2 : i < b.length := by simp only [List.length_take] at h; omega
    rw [if_pos (by omega), if_pos h]
    simp [h1, List.getElem?_eq_getElem h2]
  · rw [if_neg (by omega), if_neg h]

/-- `N` after LOAD is the number of bytes taken. -/
theorem State.load_n_toNat (s : State) (b : List Byte) : (s.load b).n.toNat = min Config.nMax b.length := by
  rw [State.load_n, BitVec.toNat_ofNat, List.length_take]
  have : min Config.nMax b.length ≤ 258 := Nat.min_le_left _ _
  omega

/-- The state after reset has a canonical frame buffer. -/
theorem reset_memory_wf : State.reset.fb.wf = true := rfl

end Sys2Proof.Machine
end

