-- ==== Sys2Proof/Laws/Fields.lean ====
section
/-! SUPPORT. What the shared operations on a payload answer: a slice of the frame buffer, the extraction primitive, a
field with one or two locations, the byte sum. -/

namespace Sys2Proof.Machine

@[simp] theorem State.fbSlice_length (s : State) (lo len : Nat) : (s.fbSlice lo len).length = len := by
  simp [State.fbSlice]

theorem State.fbSlice_getElem? (s : State) (lo len k : Nat) :
    (s.fbSlice lo len)[k]? = if k < len then some (s.fbByte (lo + k)) else none := by
  unfold State.fbSlice
  by_cases h : k < len
  · simp [h]
  · simp [h]

@[simp] theorem State.payload_length (s : State) : s.payload.length = s.res.payloadLen.toNat := by
  simp [State.payload]

theorem State.payload_getElem? (s : State) (k : Nat) :
    s.payload[k]? = if k < s.res.payloadLen.toNat then some (s.fbByte (4 + k)) else none :=
  s.fbSlice_getElem? Config.payloadBase _ k

/-- A field with one location: valid exactly when its byte exists, with the interpreted raw value. -/
theorem fieldOp_one (w : Nat) (d : Descriptor) (p : List Byte) :
    fieldOp w d [] p =
      match p[d.off.toNat]? with
      | some b => ⟨true, (interpret d.interp ((b &&& d.mask) >>> d.shift.toNat)).setWidth w⟩
      | none => Field.none w := by
  unfold fieldOp
  cases h : p[d.off.toNat]? <;> simp [rawValue, extract, h]

/-- A field with two locations: valid exactly when both bytes exist, with the OR of the two raw values interpreted. -/
theorem fieldOp_two (w : Nat) (d e : Descriptor) (p : List Byte) :
    fieldOp w d [e] p =
      match p[d.off.toNat]?, p[e.off.toNat]? with
      | some b, some c =>
        ⟨true, (interpret d.interp (((b &&& d.mask) >>> d.shift.toNat) ||| ((c &&& e.mask) >>> e.shift.toNat))).setWidth w⟩
      | _, _ => Field.none w := by
  unfold fieldOp
  cases h1 : p[d.off.toNat]? <;> cases h2 : p[e.off.toNat]? <;> simp [rawValue, extract, h1, h2]

/-- The valid bit of a field operation: every location's offset is below the payload's length. -/
theorem fieldOp_valid (w : Nat) (d : Descriptor) (p : List Byte) :
    (fieldOp w d [] p).valid = decide (d.off.toNat < p.length) := by
  rw [fieldOp_one]
  split
  · rename_i h
    have := (List.getElem?_eq_some_iff.mp h).1
    simp [this]
  · rename_i h
    have := List.getElem?_eq_none_iff.mp h
    simp [Field.none, Nat.not_lt.mpr this]

/-- The byte sum modulo 256 is the sum of the byte values modulo 256. -/
theorem sum8_toNat (p : List Byte) : (sum8 p).toNat = (p.map BitVec.toNat).sum % 256 := by
  induction p with
  | nil => rfl
  | cons b p ih => simp [sum8, BitVec.toNat_add, ih]

theorem sum8_append (p q : List Byte) : sum8 (p ++ q) = sum8 p + sum8 q := by
  induction p with
  | nil => simp [sum8]
  | cons b p ih => simp [sum8, ih, BitVec.add_assoc]

end Sys2Proof.Machine
end

