-- ==== Sys2Proof/Laws/Exec.lean ====
section
/-! SUPPORT. What the shared steps can answer: a field operation is one update of the field part of RES; a command case
is a hard error or a whole result; a decoder step, a row request and a host request. -/

namespace Sys2Proof.Machine

/-- Every operation that is no command case answers a next state in which only the field part of `RES` may differ. -/
theorem exec_row_next {i : Instr} (h : i.format ≠ .command) (s : State) : ∃ f, exec i s = .next (s.withFields f) := by
  cases i <;> first | exact absurd rfl h | exact ⟨_, rfl⟩

/-- Every command case answers the decode taken in its direction with its command byte. -/
theorem exec_command_next {i : Instr} (h : i.format = .command) (s : State) :
    ∃ dir c, exec i s = .next (s.decodeAs dir c) := by
  cases i <;> first | exact ⟨_, _, rfl⟩ | exact absurd h (by decide)

/-- A decode in one command case: a hard error, or the whole result. -/
theorem State.decodeAs_cases (s : State) (dir : Direction) (c : Byte) :
    (∃ e, s.hardError dir = some e ∧ s.decodeAs dir c = s.raise e) ∨
    (s.hardError dir = none ∧ s.decodeAs dir c = s.finish (s.okResult dir c)) := by
  unfold State.decodeAs
  cases h : s.hardError dir with
  | some e => exact .inl ⟨e, rfl, rfl⟩
  | none => exact .inr ⟨rfl, rfl⟩

/-- The command selector picks the direction, and its operation carries the command byte it was read from. -/
theorem exec_decodeCommand (c : Byte) (s : State) :
    exec (decodeCommand c) s = .next (s.decodeAs (directionOf c) c) := by
  unfold decodeCommand directionOf
  by_cases h1 : c = 0x01#8
  · subst h1; rfl
  · by_cases h2 : c = 0x31#8
    · subst h2; rfl
    · have h3 : ¬ c = Config.cmdSet := h1
      rw [if_neg h1, if_neg h2, if_neg h3]; rfl

/-- A row of the table is no command case. -/
theorem decodeRow_format {w : List Byte} {i : Instr} (h : decodeRow w = .ok i) : i.format ≠ .command := by
  have hfind : ∀ (rows : List (RomWord × Instr)), (∀ r ∈ rows, r.2.format ≠ .command) →
      ∀ v j, findRow v rows = some j → j.format ≠ .command := by
    intro rows
    induction rows with
    | nil => intro _ v j hj; simp [findRow] at hj
    | cons r rows ih =>
      obtain ⟨k, i'⟩ := r
      intro hall v j hj
      simp only [findRow] at hj
      split at hj
      · cases hj; exact hall (k, i') (by simp)
      · exact ih (fun r hr => hall r (by simp [hr])) v j hj
  unfold decodeRow at h
  split at h
  · unfold decodeDescriptor at h
    split at h
    · exact absurd h (by simp)
    · split at h
      · exact absurd h (by simp)
      · split at h
        · rename_i j hj
          cases h
          exact hfind romRows (by decide) _ _ hj
        · exact absurd h (by simp)
  · unfold decodeSelector at h
    split at h
    · cases h; decide
    · split at h
      · cases h; decide
      · exact absurd h (by simp)
  · exact absurd h (by simp)

/-- What a row request can answer: a refusal by name, no effect, or an update of the field part of `RES`. -/
theorem rowStep_cases (w : List Byte) (s : State) :
    (∃ r, rowStep w s = .refused r) ∨ (s.resValid = true ∧ rowStep w s = .next s) ∨
    (∃ i f, decodeRow w = .ok i ∧ s.resValid = true ∧ s.res.status = statusOk ∧ rowStep w s = exec i s ∧
      exec i s = .next (s.withFields f)) := by
  unfold rowStep
  cases h : decodeRow w with
  | error e => exact .inl ⟨.notInTable e, rfl⟩
  | ok i =>
    cases hv : s.resValid with
    | false => exact .inl ⟨.resNotValid, by simp⟩
    | true =>
      by_cases hs : s.res.status = statusOk
      · obtain ⟨f, hf⟩ := exec_row_next (decodeRow_format h) s
        exact .inr (.inr ⟨i, f, rfl, rfl, hs, by simp [hs], hf⟩)
      · exact .inr (.inl ⟨rfl, by simp [hs]⟩)

/-- The decoder's step is `DECODE_FRAME` with the enable consumed: the operation of the fetched command byte does exactly
what the command cases of R80 do. -/
theorem decoderStep_eq (s : State) : decoderStep s = .next ({ s with start := false } : State).decodeFrame := by
  unfold decoderStep State.decodeFrame
  cases h : ({ s with start := false } : State).earlyError with
  | some e => simp only [h]
  | none => simp only [h]; exact exec_decodeCommand _ _

/-- When it is the decoder's turn, the step is `DECODE_FRAME` with the enable consumed. -/
theorem step_decoder {s : State} (h : s.decoderTurn = true) :
    step s = .next ({ s with start := false } : State).decodeFrame := by
  unfold step machineStep; rw [if_pos h]; exact decoderStep_eq s

/-- When it is not, the step is the host's. -/
theorem step_host {s : State} (h : s.decoderTurn = false) : step s = hostStep s := by
  unfold step machineStep; rw [if_neg (by simp [h])]

/-- A pending reset is performed at once, whether or not a decode is enabled. -/
theorem step_reset {s : State} {rest : List HostOp} (h : s.requests = .reset :: rest) :
    step s = .next ({ s with requests := rest } : State).doReset := by
  rw [step_host (by simp [State.decoderTurn, State.resetPending, h])]
  simp [hostStep, h, performRequest]

/-- With no step enabled it is the host's turn. -/
theorem State.decoderTurn_of_not_start {s : State} (h : s.start = false) : s.decoderTurn = false := by
  simp [State.decoderTurn, h]

end Sys2Proof.Machine
end

