-- ==== Sys2Proof/Laws/PerInstr.lean ====
section
/-! SUPPORT. Facts about every instruction as syntax, one lemma for each constructor. EncodedForm: the encoded length is
the one its format has, one byte for a command, three for a descriptor ROM word, two for the model's own selector. -/

namespace Sys2Proof.Laws

/-- The number of bytes of each encoding sort (R62, R65; log entry 6 for the two operations without an encoding). -/
def formatBytes : Instr.Format → Nat
  | .command => 1
  | .descriptor => 3
  | .unencoded => 2

namespace EncodedForm

/-- The encoded length of an instruction is its format's. -/
def Statement (i : Instr) : Prop := (encode i).length = formatBytes i.format

theorem frameSet : Statement .frameSet := rfl
theorem frameReport : Statement .frameReport := rfl
theorem frameOther (command : Byte) : Statement (.frameOther command) := rfl
theorem fxPower : Statement .fxPower := rfl
theorem fxMode : Statement .fxMode := rfl
theorem fxTsel : Statement .fxTsel := rfl
theorem fxTtab : Statement .fxTtab := rfl
theorem fxFan : Statement .fxFan := rfl
theorem fxFan2 : Statement .fxFan2 := rfl
theorem fxQuiet : Statement .fxQuiet := rfl
theorem fxTurbo : Statement .fxTurbo := rfl
theorem fxVswing : Statement .fxVswing := rfl
theorem fxHswing : Statement .fxHswing := rfl
theorem fxDmode : Statement .fxDmode := rfl
theorem fxDon : Statement .fxDon := rfl
theorem fxDunitf : Statement .fxDunitf := rfl
theorem fxPlasma : Statement .fxPlasma := rfl
theorem fxPlasma2 : Statement .fxPlasma2 := rfl
theorem fxSleep : Statement .fxSleep := rfl
theorem fxXfan : Statement .fxXfan := rfl
theorem fxSave : Statement .fxSave := rfl
theorem fxBeep : Statement .fxBeep := rfl
theorem fxItemp : Statement .fxItemp := rfl
theorem lkTtemp : Statement .lkTtemp := rfl
theorem noteBeep : Statement .noteBeep := rfl

end EncodedForm

end Sys2Proof.Laws
end

