-- ==== Sys2Proof/Tests/Slice0.lean ====
section
/-! SUPPORT. Tests on fixed values. Expected results are the spec's own words and vectors (30_encoding.md R62, R65, R66;
95_test_vectors.md S1 to S11, V1 to V9, 2.4 to 2.7, P4, P5). The last part gives, for each obligation that has
hypotheses, concrete values that meet all of them together. -/

namespace Sys2Proof.Tests

open Sys2Proof.Machine Sys2Proof.Claims

/-! ### Well-formedness: the two ill-formed terms are refused -/

theorem test_wf_refuses_other_with_set_byte : (Instr.frameOther 0x01#8).wf = false := by decide
theorem test_wf_refuses_other_with_report_byte : (Instr.frameOther 0x31#8).wf = false := by decide
theorem test_wf_accepts_other : (Instr.frameOther 0x44#8).wf = true := by decide

/-! ### Decoding: the words of R62 and R66, lowest byte first -/

theorem test_decode_frame_set : decode [0x01#8] = .ok .frameSet := by rfl
theorem test_decode_frame_report : decode [0x31#8] = .ok .frameReport := by rfl
theorem test_decode_frame_other : decode [0x44#8] = .ok (.frameOther 0x44#8) := by rfl
theorem test_decode_fx_power : decode [0x80#8, 0x03#8, 0x12#8] = .ok .fxPower := by rfl
theorem test_decode_fx_mode : decode [0x10#8, 0xC2#8, 0x11#8] = .ok .fxMode := by rfl
theorem test_decode_fx_tsel : decode [0x20#8, 0xC2#8, 0x17#8] = .ok .fxTsel := by rfl
theorem test_decode_fx_ttab : decode [0x28#8, 0x00#8, 0x1D#8] = .ok .fxTtab := by rfl
theorem test_decode_fx_fan : decode [0x08#8, 0x3C#8, 0x48#8] = .ok .fxFan := by rfl
theorem test_decode_fx_fan2 : decode [0x08#8, 0x0C#8, 0x10#8] = .ok .fxFan2 := by rfl
theorem test_decode_fx_quiet : decode [0x00#8, 0x20#8, 0x40#8] = .ok .fxQuiet := by rfl
theorem test_decode_fx_turbo : decode [0x00#8, 0x04#8, 0x18#8] = .ok .fxTurbo := by rfl
theorem test_decode_fx_vswing : decode [0x08#8, 0xC2#8, 0x23#8] = .ok .fxVswing := by rfl
theorem test_decode_fx_hswing : decode [0x08#8, 0x1C#8, 0x20#8] = .ok .fxHswing := by rfl
theorem test_decode_fx_dmode : decode [0x18#8, 0xC2#8, 0x24#8] = .ok .fxDmode := by rfl
theorem test_decode_fx_don : decode [0x00#8, 0x08#8, 0x18#8] = .ok .fxDon := by rfl
theorem test_decode_fx_dunitf : decode [0x00#8, 0x00#8, 0x1E#8] = .ok .fxDunitf := by rfl
theorem test_decode_fx_plasma : decode [0x04#8, 0x10#8, 0x18#8] = .ok .fxPlasma := by rfl
theorem test_decode_fx_plasma2 : decode [0x00#8, 0x10#8, 0x00#8] = .ok .fxPlasma2 := by rfl
theorem test_decode_fx_sleep : decode [0x00#8, 0x20#8, 0x10#8] = .ok .fxSleep := by rfl
theorem test_decode_fx_xfan : decode [0x00#8, 0x20#8, 0x18#8] = .ok .fxXfan := by rfl
theorem test_decode_fx_save : decode [0x00#8, 0x00#8, 0x2D#8] = .ok .fxSave := by rfl
theorem test_decode_fx_beep : decode [0x38#8, 0x04#8, 0xA0#8] = .ok .fxBeep := by rfl
theorem test_decode_fx_itemp : decode [0x30#8, 0xFC#8, 0xAB#8] = .ok .fxItemp := by rfl
/-- The model's own selectors (log entry 6). -/
theorem test_decode_lk_ttemp : decode [0x00#8, 0x00#8] = .ok .lkTtemp := by rfl
theorem test_decode_note_beep : decode [0x01#8, 0x00#8] = .ok .noteBeep := by rfl

/-- Rejections, each by its name: R65's reserved bits and interpreter codes, a legal word that is not in the ROM. -/
theorem test_reject_reserved_bits : decode [0x81#8, 0x03#8, 0x12#8] = .error .reservedBits := by rfl
theorem test_reject_reserved_interp : decode [0xC0#8, 0x03#8, 0x12#8] = .error .reservedInterp := by rfl
theorem test_reject_not_in_rom : decode [0x00#8, 0x00#8, 0x00#8] = .error .notInRom := by rfl
theorem test_reject_selector : decode [0x02#8, 0x00#8] = .error .badSelector := by rfl
theorem test_reject_empty : decode [] = .error .badLength := by rfl
theorem test_reject_four_bytes : decode [0x80#8, 0x03#8, 0x12#8, 0x00#8] = .error .badLength := by rfl

/-- 2.6: the packing of R65 gives the ROM word column of R66, in its order. -/
theorem test_rom_words : descRom.map Descriptor.pack = romRows.map Prod.fst := by decide

/-- R68: no two named fields of one payload byte overlap. -/
theorem test_named_masks_disjoint :
    descRom.Pairwise (fun d e => d.off = e.off → d.mask &&& e.mask = 0#8) := by decide

/-- R66: `cont` is 1 in the first `plasma` row only. -/
theorem test_cont_only_plasma : descRom.filter Descriptor.cont = [descPlasma] := by decide

/-- The opcode table's words, numbered as it numbers them. -/
theorem test_table_word_set : decodeTableWord 8 0x01 = some .frameSet := by rfl
theorem test_table_word_power : decodeTableWord 24 0x120380 = some .fxPower := by rfl

/-! ### Helpers -/

/-- A state in which a candidate is loaded after reset and the decoder's step is enabled. -/
def started (b : List Byte) : State := { State.reset.load b with start := true }

/-- `RES` after the decoder's step on a candidate. -/
def resOf (b : List Byte) : Option Res :=
  match step (started b) with
  | .next t => some t.res
  | _ => none

/-- A state whose `RES` describes a payload, as after a decode, its entries still 0. -/
def described (p : List Byte) : State :=
  { State.reset.load ([0x7E#8, 0x7E#8, 0x00#8, 0x31#8] ++ p) with
    resValid := true, res := { Res.ofStatus 0 with payloadLen := BitVec.ofNat 8 p.length } }

/-- The entries after one operation on its own. -/
def fieldsAfter (i : Instr) (s : State) : Option Fields :=
  match exec i s with
  | .next t => some t.res.fields
  | _ => none

/-- `k` zero bytes, then `b`: a payload whose last byte has offset `k`. -/
def byteAt (k : Nat) (b : Byte) : List Byte := List.replicate k 0#8 ++ [b]

/-- Zero bytes. -/
def zeros (k : Nat) : List Byte := List.replicate k 0#8

/-! ### One step of each field operation (2.4; the second test of a row is the unnamed bits or the missing byte) -/

theorem test_power : (fieldsAfter .fxPower (described (byteAt 4 0x80#8))).map (·.powerBitRaw) = some ⟨true, 1⟩ := by decide
theorem test_power_other_bits : (fieldsAfter .fxPower (described (byteAt 4 0x7F#8))).map (·.powerBitRaw) = some ⟨true, 0⟩ := by decide
theorem test_mode_fan : (fieldsAfter .fxMode (described (byteAt 4 0x30#8))).map (·.mode) = some ⟨true, 3, true⟩ := by decide
theorem test_mode_unknown : (fieldsAfter .fxMode (described (byteAt 4 0x50#8))).map (·.mode) = some ⟨true, 5, false⟩ := by decide
theorem test_tsel : (fieldsAfter .fxTsel (described (byteAt 5 0xF0#8))).map (·.targetTempSelect) = some ⟨true, 15⟩ := by decide
theorem test_tsel_low_nibble : (fieldsAfter .fxTsel (described (byteAt 5 0x0F#8))).map (·.targetTempSelect) = some ⟨true, 0⟩ := by decide
theorem test_ttab : (fieldsAfter .fxTtab (described (byteAt 7 0x40#8))).map (·.tempTableSelect) = some ⟨true, 1⟩ := by decide
theorem test_ttab_other_bits : (fieldsAfter .fxTtab (described (byteAt 7 0xBF#8))).map (·.tempTableSelect) = some ⟨true, 0⟩ := by decide
theorem test_fan : (fieldsAfter .fxFan (described (byteAt 18 0x0A#8))).map (·.fanSpeed) = some ⟨true, 10⟩ := by decide
theorem test_fan_high_nibble : (fieldsAfter .fxFan (described (byteAt 18 0xF0#8))).map (·.fanSpeed) = some ⟨true, 0⟩ := by decide
theorem test_fan2 : (fieldsAfter .fxFan2 (described (byteAt 4 0x03#8))).map (·.fanSpeedAlt) = some ⟨true, 3⟩ := by decide
theorem test_fan2_missing : (fieldsAfter .fxFan2 (described (zeros 4))).map (·.fanSpeedAlt) = some ⟨false, 0⟩ := by decide
theorem test_quiet : (fieldsAfter .fxQuiet (described (byteAt 16 0x08#8))).map (·.fanQuiet) = some ⟨true, 1⟩ := by decide
theorem test_quiet_other_bits : (fieldsAfter .fxQuiet (described (byteAt 16 0xF7#8))).map (·.fanQuiet) = some ⟨true, 0⟩ := by decide
theorem test_turbo : (fieldsAfter .fxTurbo (described (byteAt 6 0x01#8))).map (·.fanTurbo) = some ⟨true, 1⟩ := by decide
theorem test_turbo_other_bits : (fieldsAfter .fxTurbo (described (byteAt 6 0xF0#8))).map (·.fanTurbo) = some ⟨true, 0⟩ := by decide
theorem test_vswing : (fieldsAfter .fxVswing (described (byteAt 8 0xA3#8))).map (·.verticalSwing) = some ⟨true, 10⟩ := by decide
theorem test_vswing_unnamed_bit : (fieldsAfter .fxVswing (described (byteAt 8 0x08#8))).map (·.verticalSwing) = some ⟨true, 0⟩ := by decide
theorem test_hswing : (fieldsAfter .fxHswing (described (byteAt 8 0xA3#8))).map (·.horizontalSwing) = some ⟨true, 3⟩ := by decide
theorem test_hswing_unnamed_bit : (fieldsAfter .fxHswing (described (byteAt 8 0x08#8))).map (·.horizontalSwing) = some ⟨true, 0⟩ := by decide
theorem test_dmode : (fieldsAfter .fxDmode (described (byteAt 9 0x20#8))).map (·.displayMode) = some ⟨true, 2⟩ := by decide
theorem test_dmode_other_bits : (fieldsAfter .fxDmode (described (byteAt 9 0xCF#8))).map (·.displayMode) = some ⟨true, 0⟩ := by decide
theorem test_don : (fieldsAfter .fxDon (described (byteAt 6 0x02#8))).map (·.displayOn) = some ⟨true, 1⟩ := by decide
theorem test_don_other_bits : (fieldsAfter .fxDon (described (byteAt 6 0xF0#8))).map (·.displayOn) = some ⟨true, 0⟩ := by decide
theorem test_dunitf : (fieldsAfter .fxDunitf (described (byteAt 7 0x80#8))).map (·.displayFahrenheit) = some ⟨true, 1⟩ := by decide
theorem test_dunitf_other_bits : (fieldsAfter .fxDunitf (described (byteAt 7 0x3F#8))).map (·.displayFahrenheit) = some ⟨true, 0⟩ := by decide
theorem test_plasma_first : (fieldsAfter .fxPlasma (described (byteAt 6 0x04#8))).map (·.plasma) = some ⟨true, 1⟩ := by decide
/-- V7c: the second location alone does not exist as a field when offset 6 is missing. -/
theorem test_plasma_needs_both :
    (fieldsAfter .fxPlasma (described [0x04#8, 0x00#8, 0x00#8, 0x00#8, 0x90#8, 0x30#8])).map (·.plasma) = some ⟨false, 0⟩ := by decide
theorem test_plasma2_second :
    (fieldsAfter .fxPlasma2 (described ([0x04#8] ++ zeros 6))).map (·.plasma) = some ⟨true, 1⟩ := by decide
theorem test_plasma2_other_bits :
    (fieldsAfter .fxPlasma2 (described ([0xFB#8] ++ zeros 5 ++ [0xFB#8]))).map (·.plasma) = some ⟨true, 0⟩ := by decide
theorem test_sleep : (fieldsAfter .fxSleep (described (byteAt 4 0x08#8))).map (·.sleep) = some ⟨true, 1⟩ := by decide
theorem test_sleep_unnamed_bit : (fieldsAfter .fxSleep (described (byteAt 4 0x04#8))).map (·.sleep) = some ⟨true, 0⟩ := by decide
theorem test_xfan : (fieldsAfter .fxXfan (described (byteAt 6 0x08#8))).map (·.xfan) = some ⟨true, 1⟩ := by decide
theorem test_xfan_other_bits : (fieldsAfter .fxXfan (described (byteAt 6 0xF0#8))).map (·.xfan) = some ⟨true, 0⟩ := by decide
theorem test_save : (fieldsAfter .fxSave (described (byteAt 11 0x40#8))).map (·.saveEco) = some ⟨true, 1⟩ := by decide
theorem test_save_other_bits : (fieldsAfter .fxSave (described (byteAt 11 0xBF#8))).map (·.saveEco) = some ⟨true, 0⟩ := by decide
theorem test_beep : (fieldsAfter .fxBeep (described (byteAt 40 0x01#8))).map (·.beeperRaw) = some ⟨true, 1⟩ := by decide
theorem test_beep_other_bits : (fieldsAfter .fxBeep (described (byteAt 40 0xFE#8))).map (·.beeperRaw) = some ⟨true, 0⟩ := by decide
theorem test_itemp_lowest : (fieldsAfter .fxItemp (described (byteAt 42 0x00#8))).map (·.indoorTemp.value.toInt) = some (-16) := by decide
theorem test_itemp_highest : (fieldsAfter .fxItemp (described (byteAt 42 0xFF#8))).map (·.indoorTemp.value.toInt) = some 239 := by decide
/-- (sel 4, tab 0) = 20.0 (S6). -/
theorem test_ttemp_table_a :
    (fieldsAfter .lkTtemp ((described []).withFields
      { Fields.zero with targetTempSelect := ⟨true, 4⟩, tempTableSelect := ⟨true, 0⟩ })).map (·.targetTemp) = some ⟨true, 20⟩ := by decide
/-- (sel 14, tab 1) = 0, a valid value (S11 b). -/
theorem test_ttemp_table_b_zero :
    (fieldsAfter .lkTtemp ((described []).withFields
      { Fields.zero with targetTempSelect := ⟨true, 14⟩, tempTableSelect := ⟨true, 1⟩ })).map (·.targetTemp) = some ⟨true, 0⟩ := by decide
theorem test_note_set :
    (fieldsAfter .noteBeep { described [] with res := { Res.ofStatus 0 with direction := 1 } }).map (noteValue ·.beeperNote) =
      some (.note .setInverted) := by decide
theorem test_note_report :
    (fieldsAfter .noteBeep (described [])).map (noteValue ·.beeperNote) = some (.note .reportDirect) := by decide

/-! ### The decoder's step (2.1, 2.2, 2.3, 2.5) -/

/-- V2, REPORT, most fields set, 48 bytes. -/
def v2 : List Byte :=
  [0x7E#8, 0x7E#8, 0x2D#8, 0x31#8, 0x04#8, 0x00#8, 0x00#8, 0x00#8, 0x9A#8, 0x80#8, 0x0B#8, 0x80#8, 0x35#8, 0x20#8, 0x00#8, 0x40#8] ++
  zeros 4 ++ [0x08#8, 0x00#8, 0x03#8] ++ zeros 21 ++ [0x01#8, 0x00#8, 0x29#8, 0xD1#8]

/-- V3, SET, table B zero slot, 50 bytes. -/
def v3 : List Byte :=
  [0x7E#8, 0x7E#8, 0x2F#8, 0x01#8, 0x00#8, 0x00#8, 0x00#8, 0x00#8, 0xC1#8, 0x40#8, 0x04#8, 0x40#8, 0xF7#8, 0x30#8] ++
  zeros 8 ++ [0x0F#8] ++ zeros 21 ++ [0x01#8, 0x00#8, 0x10#8, 0x00#8, 0x00#8, 0xBC#8]

/-- V4: a checksum mismatch and the mode code 5. -/
def v4 : List Byte := [0x7E#8, 0x7E#8, 0x2D#8, 0x31#8, 0x00#8, 0x00#8, 0x00#8, 0x00#8, 0x50#8] ++ zeros 39

/-- V5: all-ones payload. -/
def v5 : List Byte := [0x7E#8, 0x7E#8, 0x2D#8, 0x31#8] ++ List.replicate 43 0xFF#8 ++ [0x33#8]

/-- V6a: the smallest good frame. -/
def v6a : List Byte := [0x7E#8, 0x7E#8, 0x02#8, 0x31#8, 0x33#8]

/-- V6h: SET with length byte 0. -/
def v6h : List Byte := [0x7E#8, 0x7E#8, 0x00#8, 0x01#8] ++ zeros 45 ++ [0x01#8]

/-- V6m: the largest frame, 258 bytes. -/
def v6m : List Byte := [0x7E#8, 0x7E#8, 0xFF#8, 0x31#8] ++ List.replicate 253 0x01#8 ++ [0x2D#8]

/-- V7, `plen = 8`. -/
def v7 : List Byte :=
  [0x7E#8, 0x7E#8, 0x0A#8, 0x31#8, 0x04#8, 0x00#8, 0x00#8, 0x00#8, 0x90#8, 0x30#8, 0x00#8, 0x40#8, 0x3F#8]

/-- V7b, `plen = 7`. -/
def v7b : List Byte :=
  [0x7E#8, 0x7E#8, 0x09#8, 0x31#8, 0x04#8, 0x00#8, 0x00#8, 0x00#8, 0x90#8, 0x30#8, 0x00#8, 0xFE#8]

/-- V8, an unrecognised command. -/
def v8 : List Byte := [0x7E#8, 0x7E#8, 0x2D#8, 0x44#8, 0x00#8, 0x00#8, 0x00#8, 0x00#8, 0x20#8] ++ zeros 38 ++ [0x91#8]

/-- V9: two trailing bytes. -/
def v9 : List Byte := [0x7E#8, 0x7E#8, 0x2D#8, 0x31#8] ++ zeros 43 ++ [0x5E#8, 0xAA#8, 0xBB#8]

/-- The report of V2, in the order of R151 (P1's end state). -/
theorem test_v2_report : (resOf v2).map (·.fields.report) = some (
    [("power_bit_raw", .integer 1), ("mode", .text "COOL"), ("target_temp_select", .integer 8),
     ("temp_table_select", .integer 0), ("target_temp", .number (tempA 8)), ("fan_speed", .integer 3),
     ("fan_speed_alt", .integer 2), ("fan_quiet", .integer 1), ("fan_turbo", .integer 1), ("vertical_swing", .integer 3)] ++
    [("horizontal_swing", .integer 5), ("display_mode", .text "ACT"), ("display_on", .integer 1),
     ("display_fahrenheit", .integer 1), ("plasma", .integer 1), ("sleep", .integer 1), ("xfan", .integer 1),
     ("save_eco", .integer 1), ("beeper_raw", .integer 1), ("beeper_note", .note .reportDirect),
     ("indoor_temp", .integer 25)]) := by rfl
theorem test_v2_header : (resOf v2).map (fun r => (r.status, r.payloadLen, r.checksum, r.checksumOk)) =
    some (0, 43, 0xD1#8, true) := by decide
theorem test_v3_header : (resOf v3).map (fun r => (r.command, r.direction, r.payloadLen, r.checksumOk)) =
    some (0x01#8, 1, 45, true) := by decide +kernel
theorem test_v3_fields : (resOf v3).map (fun r => (r.fields.targetTemp, modeValue r.fields.mode, r.fields.indoorTemp)) =
    some (⟨true, 0⟩, .text "HEAT", ⟨true, 0⟩) := by rfl
theorem test_v4_mismatch : (resOf v4).map (fun r => (r.status, r.checksumOk, modeValue r.fields.mode)) =
    some (0, false, .text "UNKNOWN(5)") := by rfl
theorem test_v5_wraps : (resOf v5).map (fun r => (r.checksumOk, r.fields.fanSpeedAlt)) = some (true, ⟨true, 3⟩) := by decide
theorem test_v6a : (resOf v6a).map (fun r => (r.status, r.checksumOk, r.fields)) =
    some (0, true, { Fields.zero with beeperNote := ⟨true, 0⟩ }) := by rfl
theorem test_v6b_negative_plen : (resOf [0x7E#8, 0x7E#8, 0x01#8, 0x31#8, 0x32#8]).map (·.status) = some 3 := by decide
theorem test_v6d_short : resOf [0x7E#8, 0x7E#8, 0x02#8, 0x31#8] = some (Res.ofStatus 1) := by rfl
theorem test_v6e_sync : resOf [0x7E#8, 0x7F#8, 0x02#8, 0x31#8, 0x33#8] = some (Res.ofStatus 2) := by rfl
theorem test_v6f_sync : (resOf [0x7F#8, 0x7E#8, 0x02#8, 0x31#8, 0x33#8]).map (·.status) = some 2 := by decide
theorem test_v6g_set_needs_50 : resOf ([0x7E#8, 0x7E#8, 0x2F#8, 0x01#8] ++ zeros 45) = some (Res.ofStatus 3) := by rfl
theorem test_v6h_set_length_zero : (resOf v6h).map (fun r => (r.status, r.payloadLen, r.checksumOk)) = some (0, 45, true) := by decide +kernel
theorem test_v6i_one_short : (resOf ([0x7E#8, 0x7E#8, 0x2D#8, 0x31#8] ++ zeros 43)).map (·.status) = some 3 := by decide
theorem test_v6k_empty : (resOf []).map (·.status) = some 1 := by decide
theorem test_v7_fields : (resOf v7).map (fun r => (r.checksumOk, r.fields.plasma, r.fields.targetTemp, r.fields.verticalSwing)) =
    some (true, ⟨true, 1⟩, ⟨true, tempB 3⟩, ⟨false, 0⟩) := by rfl
theorem test_v7b_no_lookup : (resOf v7b).map (fun r => (r.fields.targetTemp, r.fields.targetTempSelect)) =
    some (⟨false, 0⟩, ⟨true, 3⟩) := by rfl
theorem test_v8_other : (resOf v8).map (fun r => (r.command, r.direction, r.checksumOk, modeValue r.fields.mode)) =
    some (0x44#8, 0, true, .text "DRY") := by rfl
theorem test_v9_trailing : (resOf v9).map (fun r => (r.checksum, r.checksumOk)) = some (0x5E#8, true) := by decide

/-- 2.2, V1: the two sync bytes are not summed. -/
theorem test_v1_checksum : checksumCalc 0x2D#8 0x31#8 ([0x00#8, 0x00#8, 0x00#8, 0x10#8] ++ zeros 39) = 0x6E#8 := by decide
/-- 2.2, V6m: the sum of 253 bytes wraps. -/
theorem test_v6m_checksum : checksumCalc 0xFF#8 0x31#8 (List.replicate 253 0x01#8) = 0x2D#8 := by decide +kernel

/-! ### A word placed to be fetched is the operation that runs -/

theorem test_fetch_command : (match step (State.reset.withFetchWord 8 0x44) with
    | .next t => (t.res.status, t.res.command)
    | _ => (3, 0)) = (0, 0x44#8) := by decide
theorem test_fetch_row : step (State.reset.withFetchWord 24 0xA00438) = exec .fxBeep (withResult State.reset) := by rfl
theorem test_fetch_selector : step (State.reset.withFetchWord 16 0x0001) = exec .noteBeep (withResult State.reset) := by rfl

/-! ### The environment (2.7) -/

theorem test_hex_separators : parseHex "7E.7E,2D 31".toList = [0x7E#8, 0x7E#8, 0x2D#8, 0x31#8] := by decide
theorem test_hex_concatenated : parseHex "7E7E2D31".toList = [0x7E#8, 0x7E#8, 0x2D#8, 0x31#8] := by decide
theorem test_hex_0x : parseHex "0x7E,0x7e".toList = [0x7E#8, 0x7E#8] := by decide
theorem test_hex_lone_digits : parseHex "7E7 E1".toList = [0x7E#8, 0xE1#8] := by decide
theorem test_hex_split_pair : parseHex "7 E".toList = [] := by decide
theorem test_hex_word : parseHex "decode".toList = [0xDE#8, 0xDE#8] := by decide
theorem test_extract_none : extractFrames [0x00#8, 0x11#8, 0x22#8, 0x33#8] = [] := by decide
theorem test_extract_no_length : extractFrames [0x7E#8, 0x7E#8] = [] := by decide
theorem test_extract_short : extractFrames [0x7E#8, 0x7E#8, 0x00#8] = [[0x7E#8, 0x7E#8, 0x00#8]] := by decide
theorem test_extract_noise :
    extractFrames [0x00#8, 0x12#8, 0x7E#8, 0x7E#8, 0x7E#8, 0x02#8, 0x31#8, 0x33#8, 0x99#8] =
      [[0x7E#8, 0x7E#8, 0x02#8, 0x31#8, 0x33#8]] := by decide
theorem test_extract_nested :
    extractFrames [0x7E#8, 0x7E#8, 0x04#8, 0x31#8, 0x7E#8, 0x7E#8, 0x02#8, 0x31#8, 0x33#8] =
      [[0x7E#8, 0x7E#8, 0x04#8, 0x31#8, 0x7E#8, 0x7E#8, 0x02#8], [0x7E#8, 0x7E#8, 0x02#8, 0x31#8, 0x33#8]] := by decide

/-! ### Witnesses: values that meet an obligation's hypotheses together -/

/-- The state after the decoder's step on a candidate. -/
def decoded (b : List Byte) : State := ({ started b with start := false } : State).decodeFrame

theorem step_started (b : List Byte) : step (started b) = .next (decoded b) := step_decoder rfl

theorem decoded_of (b : List Byte) (h : (decoded b).res.status = 0) : Decoded (started b) (decoded b) :=
  ⟨rfl, step_started b, h⟩

/-- DecodeOfEncodeIsTheInstruction, at both ends of the operand's range. -/
theorem test_witness_round_trip : (Instr.frameOther 0x00#8).wf = true ∧ (Instr.frameOther 0xFF#8).wf = true := by decide

/-- StepRunsTheDecodedInstruction, the decoder's clause, at the smallest N it allows. -/
theorem test_witness_step_decoder : (started v6a).decoderTurn = true ∧ 5 ≤ (started v6a).n.toNat ∧
    (started v6a).fbByte 0 = 0x7E#8 ∧ (started v6a).fbByte 1 = 0x7E#8 ∧ decode [(started v6a).fbByte 3] = .ok .frameReport :=
  ⟨rfl, by decide, rfl, rfl, rfl⟩

/-- A state in which one request is pending. -/
def asked (s : State) (op : HostOp) : State := { s with requests := [op] }

/-- StepRunsTheDecodedInstruction, the row's clause. -/
theorem test_witness_step_row :
    (asked (decoded v6a) (.row [0x00#8, 0x00#8])).start = false ∧
    (asked (decoded v6a) (.row [0x00#8, 0x00#8])).requests = .row [0x00#8, 0x00#8] :: [] ∧
    (asked (decoded v6a) (.row [0x00#8, 0x00#8])).resValid = true ∧
    (asked (decoded v6a) (.row [0x00#8, 0x00#8])).res.status = 0 ∧ decode [0x00#8, 0x00#8] = .ok .lkTtemp ∧
    Instr.lkTtemp.format ≠ .command := ⟨rfl, rfl, rfl, rfl, rfl, by decide⟩

/-- DecoderStepIsDecodeFrame and SecondStartRecomputesTheSameResult. -/
theorem test_witness_enabled_step : (started v7).decoderTurn = true ∧ step (started v7) = .next (decoded v7) :=
  ⟨rfl, step_started v7⟩

/-- A candidate loaded over a longer one: stale bytes stay above N (P4). -/
def stale : State := { (State.reset.load v5).load v6a with start := true }

/-- ResultDependsOnTheCandidateAlone: same N, same candidate, different bytes above N. -/
theorem test_witness_same_candidate :
    (started v6a).decoderTurn = true ∧ stale.decoderTurn = true ∧ (started v6a).n = stale.n ∧
    (∀ a < (started v6a).n.toNat, (started v6a).fbByte a = stale.fbByte a) ∧
    step (started v6a) = .next (decoded v6a) ∧ step stale = .next ({ stale with start := false } : State).decodeFrame ∧
    stale.fbByte 5 = 0xFF#8 := by
  refine ⟨rfl, rfl, rfl, ?_, step_started v6a, step_decoder rfl, rfl⟩
  intro a h
  have : a < 5 := h
  interval_cases a <;> rfl

/-- BytesAboveTheChecksumAreIgnored: V9 has two bytes above its checksum. -/
theorem test_witness_trailing : Decoded (started v9) (decoded v9) ∧
    5 + (decoded v9).res.payloadLen.toNat < (started v9).n.toNat := ⟨decoded_of v9 (by rfl), by decide⟩

/-- DecodeSucceedsExactlyWhen: the smallest N of each of its two cases, and one byte less. -/
theorem test_witness_success_boundary :
    (decoded v6h).res.status = 0 ∧ (started v6h).n.toNat = 50 ∧ (decoded v6a).res.status = 0 ∧ (started v6a).n.toNat = 5 := by
  decide
theorem test_witness_failure_boundary :
    (decoded (v6h.take 49)).res.status = 3 ∧ (decoded (v6a.take 4)).res.status = 1 := by decide

/-- FirstErrorConditionIsReported and HardErrorLeavesOnlyItsCode: each of the three errors occurs, with an error below it
in the order also present. -/
theorem test_witness_three_errors :
    (decoded [0x00#8, 0x00#8, 0x00#8, 0x00#8]).res.status = 1 ∧
    (decoded [0x7E#8, 0x7F#8, 0x2D#8, 0x31#8, 0x00#8]).res.status = 2 ∧
    (decoded [0x7E#8, 0x7E#8, 0x03#8, 0x31#8, 0x00#8]).res.status = 3 := by decide
theorem test_witness_error_step :
    (started []).decoderTurn = true ∧ step (started []) = .next (decoded []) ∧ (decoded []).res.status ≠ 0 :=
  ⟨rfl, step_started [], by decide⟩

/-- ChecksumVerdictIsTheModularSum: both verdicts occur. -/
theorem test_witness_checksum_good : Decoded (started v5) (decoded v5) ∧ (decoded v5).res.checksumOk = true :=
  ⟨decoded_of v5 (by rfl), by decide⟩
theorem test_witness_checksum_bad : Decoded (started v4) (decoded v4) ∧ (decoded v4).res.checksumOk = false :=
  ⟨decoded_of v4 (by rfl), by decide⟩

/-- ChecksumIgnoresPayloadOrder. -/
theorem test_witness_permutation : ([0x01#8, 0x02#8] : List Byte).Perm [0x02#8, 0x01#8] := List.Perm.swap _ _ _

/-- FrameSetCompletes, at the smallest N. -/
theorem test_witness_frame_set :
    50 ≤ (started v6h).n.toNat ∧ (started v6h).n.toNat ≤ 50 ∧ (started v6h).fbByte 0 = 0x7E#8 ∧ (started v6h).fbByte 1 = 0x7E#8 := by decide

/-- CommandCasesTruncate: SET at the largest N of its clause (49) and at the smallest (5). -/
theorem test_witness_set_truncates :
    (started (v6h.take 49)).n.toNat = 49 ∧ (started (v6h.take 49)).fbByte 0 = 0x7E#8 ∧
    (started (v6h.take 49)).fbByte 1 = 0x7E#8 ∧ (started (v6h.take 5)).n.toNat = 5 := by decide

/-- CommandCasesTruncate, the other clause: length 1, and one byte fewer than `length + 3`. -/
theorem test_witness_report_truncates :
    5 ≤ (started [0x7E#8, 0x7E#8, 0x01#8, 0x31#8, 0x32#8]).n.toNat ∧
    ((started [0x7E#8, 0x7E#8, 0x01#8, 0x31#8, 0x32#8]).fbByte 2).toNat < 2 ∧
    (started [0x7E#8, 0x7E#8, 0x03#8, 0x31#8, 0x00#8]).n.toNat + 1 =
      ((started [0x7E#8, 0x7E#8, 0x03#8, 0x31#8, 0x00#8]).fbByte 2).toNat + 3 := by decide

/-- CommandCasesReportTheEarlyErrors: four bytes; five bytes with the second sync byte wrong. -/
theorem test_witness_early_errors : Instr.frameSet.format = .command ∧ (started (v6h.take 4)).n.toNat < 5 ∧
    5 ≤ (started [0x7E#8, 0x7F#8, 0x02#8, 0x31#8, 0x33#8]).n.toNat ∧
    (started [0x7E#8, 0x7F#8, 0x02#8, 0x31#8, 0x33#8]).fbByte 1 ≠ 0x7E#8 := by decide

/-- FrameReportAndOtherComplete: the smallest length byte with the smallest N, and the largest with the largest. -/
theorem test_witness_report_smallest :
    (started v6a).fbByte 0 = 0x7E#8 ∧ (started v6a).fbByte 1 = 0x7E#8 ∧ ((started v6a).fbByte 2).toNat = 2 ∧
    (started v6a).n.toNat = 5 := by decide
theorem test_witness_report_largest :
    (started v6m).fbByte 0 = 0x7E#8 ∧ (started v6m).fbByte 1 = 0x7E#8 ∧ ((started v6m).fbByte 2).toNat = 255 ∧
    (started v6m).n.toNat = 258 := by decide +kernel

/-- CommandCasesWriteOnlyTheResult. -/
theorem test_witness_command_case : exec (.frameOther 0x44#8) (started v8) = .next ((started v8).decodeAs .report 0x44#8) := rfl

/-- FieldOperationsWriteOnlyEntries. -/
theorem test_witness_field_operation : Instr.fxSave.format ≠ .command ∧
    ∃ t, exec .fxSave (decoded v2) = .next t := ⟨by decide, _, rfl⟩

/-- IndoorTempRowCompletes: the two clauses at plen 43 and 42. -/
theorem test_witness_itemp_plen :
    42 < (described (zeros 43)).res.payloadLen.toNat ∧ (described (zeros 42)).res.payloadLen.toNat ≤ 42 := by decide

/-- FieldOperationsCommute. -/
theorem test_witness_commute : Instr.noteBeep ∈ Instr.noteBeep :: Instr.descriptorRows ∧
    Instr.fxPlasma2 ∈ Instr.noteBeep :: Instr.descriptorRows := by decide

/-- RowsInTurnGiveDecodePayload, in both directions. -/
theorem test_witness_direction :
    (decoded v2).res.direction = directionBit .report ∧ (decoded v3).res.direction = directionBit .set := by decide

/-- The statements about a successful decode: V2 has every byte, V3 is SET, V7 ends at offset 7, V7b at offset 6, V6a has
no payload byte. -/
theorem test_witness_decoded_full : Decoded (started v2) (decoded v2) ∧ (decoded v2).res.payloadLen = 43 :=
  ⟨decoded_of v2 (by rfl), by decide⟩
theorem test_witness_decoded_set : Decoded (started v3) (decoded v3) ∧ (decoded v3).res.payloadLen = 45 :=
  ⟨decoded_of v3 (by rfl), by decide⟩
theorem test_witness_decoded_eight : Decoded (started v7) (decoded v7) ∧ (decoded v7).res.payloadLen = 8 :=
  ⟨decoded_of v7 (by rfl), by decide⟩
theorem test_witness_decoded_seven : Decoded (started v7b) (decoded v7b) ∧ (decoded v7b).res.payloadLen = 7 :=
  ⟨decoded_of v7b (by rfl), by decide⟩
theorem test_witness_decoded_empty : Decoded (started v6a) (decoded v6a) ∧ (decoded v6a).res.payloadLen = 0 :=
  ⟨decoded_of v6a (by rfl), by decide⟩

/-- 2.5: the frame with `plen = 42` that lacks `indoor_temp` only. -/
def plen42 : List Byte := [0x7E#8, 0x7E#8, 0x2C#8, 0x31#8] ++ zeros 43
theorem test_witness_decoded_42 : Decoded (started plen42) (decoded plen42) ∧ (decoded plen42).res.payloadLen = 42 :=
  ⟨decoded_of plen42 (by rfl), by decide⟩

/-- PrintedTemperatureEntries: S6's two payloads, here with `plen = 8`. -/
theorem test_witness_printed_entries :
    8 ≤ ([0#8, 0#8, 0#8, 0#8, 0#8, 0x40#8, 0#8, 0x40#8] : List Byte).length ∧
    (0x40#8 : Byte).toNat / 16 = 4 ∧ (0x90#8 : Byte).toNat / 16 = 9 ∧ (0xE0#8 : Byte).toNat / 16 = 14 ∧
    (0x00#8 : Byte).getLsbD 6 = false ∧ (0x40#8 : Byte).getLsbD 6 = true := by decide

/-- EntryIsValidExactlyWhenItsBytesExist: an entry on each side of its threshold. -/
theorem test_witness_thresholds :
    (true, 41) ∈ thresholds (decodePayload (zeros 41) .report) ∧ (false, 41) ∈ thresholds (decodePayload (zeros 40) .report) := by
  decide

/-- UnnamedPayloadBitsAreIgnored: V1's payload and the zero payload differ in the unnamed byte 3. -/
theorem test_witness_unnamed : (byteAt 3 0x10#8).length = (zeros 4).length ∧
    (∀ m ∈ namedBits, ((byteAt 3 0x10#8)[m.1]?.getD 0) &&& m.2 = ((zeros 4)[m.1]?.getD 0) &&& m.2) ∧
    byteAt 3 0x10#8 ≠ zeros 4 := by decide

/-- LoadStoresTheCandidate, with a candidate longer than the buffer. -/
theorem test_witness_load : (asked State.reset (.load (zeros 300))).start = false ∧
    (asked State.reset (.load (zeros 300))).requests = .load (zeros 300) :: [] := ⟨rfl, rfl⟩

/-- ReadsAnswerOnlyWhatIsDefined: the four clauses, the frame reads at N - 1 and at N. -/
theorem test_witness_reads :
    (asked (decoded v6a) .read).requests = .read :: [] ∧ (decoded v6a).resValid = true ∧ State.reset.resValid = false ∧
    (decoded v6a).start = false ∧ 4 < (decoded v6a).n.toNat ∧ (decoded v6a).n.toNat ≤ 5 := ⟨rfl, rfl, rfl, rfl, by decide, by decide⟩
theorem test_read_refused : step (asked State.reset .read) = .refused .resNotValid := by rfl
theorem test_read_frame_fault : step (asked (decoded v6a) (.readFrame 5)) = .fault (.frameAddress 5) := by rfl

/-- StartAfterResetIsFrameTooShort. -/
theorem test_witness_reset_start :
    ({ started v5 with requests := [.reset, .start, .read] } : State).requests = .reset :: .start :: [.read] ∧
    (∀ later, ([.read] : List HostOp) ≠ .reset :: later) := ⟨rfl, by intro later h; cases h⟩

/-- ResetAbandonsAnEnabledDecode: a reset pending while a decode is enabled. -/
theorem test_witness_reset_abandons : (asked (started v7) .reset).start = true ∧
    (asked (started v7) .reset).requests = .reset :: [] ∧ (asked (started v7) .reset).decoderTurn = false := ⟨rfl, rfl, rfl⟩

/-- R200: no result of the abandoned decode is left. -/
theorem test_reset_abandons : (match step (asked (started v7) .reset) with
    | .next t => (t.resValid, t.start, t.n)
    | _ => (true, true, 0)) = (false, false, 0) := by decide

/-- OnlyLoadResetAndTheDecoderWriteState: a row request on a state with a result in place. -/
theorem test_witness_no_write : (asked (decoded v6a) (.row [0x01#8, 0x00#8])).Inv ∧
    step (asked (decoded v6a) (.row [0x01#8, 0x00#8])) = exec .noteBeep (decoded v6a) ∧
    (asked (decoded v6a) (.row [0x01#8, 0x00#8])).decoderTurn = false ∧
    (∀ b rest, (asked (decoded v6a) (.row [0x01#8, 0x00#8])).requests ≠ .load b :: rest) ∧
    (∀ rest, (asked (decoded v6a) (.row [0x01#8, 0x00#8])).requests ≠ .reset :: rest) := by
  refine ⟨⟨by decide, by decide, ?_, by decide, fun h => absurd rfl h, fun _ => rfl⟩, rfl, rfl, ?_, ?_⟩
  · intro a h
    have : a < 5 := h
    interval_cases a <;> rfl
  · intro b rest h; cases h
  · intro rest h; cases h

/-- Log entry 5: while `RES_VALID = 0` (here after a LOAD over an older result) a row request is refused. -/
theorem test_row_refused :
    step (asked ((decoded v5).load v6a) (.row [0x30#8, 0xFC#8, 0xAB#8])) = .refused .resNotValid := by rfl

/-- StepGoesOnExactlyWhenPerformed: a request that is performed, and one that is not. -/
theorem test_witness_performs : (decoded v6a).performs .read ∧ (decoded v6a).performs (.readFrame 4) ∧
    ¬ (decoded v6a).performs (.readFrame 5) ∧ (decoded v6a).performs (.row [0x00#8, 0x00#8]) ∧
    ¬ State.reset.performs (.row [0x00#8, 0x00#8]) :=
  ⟨rfl, by unfold State.performs; decide, by unfold State.performs; decide, ⟨rfl, _, rfl⟩, fun h => absurd h.1 (by decide)⟩

/-- HostGetsTheResultOfItsCandidate. -/
theorem test_witness_host : ({ stale with start := false, requests := [.load v7, .start, .read] } : State).start = false ∧
    ({ stale with start := false, requests := [.load v7, .start, .read] } : State).requests =
      .load v7 :: .start :: .read :: [] := ⟨rfl, rfl⟩

/-- A state that meets the invariant with a result in place, and the next step goes on from it. -/
theorem test_witness_invariant : (decoded v6a).Inv ∧ step (decoded v6a) = .next (decoded v6a) := by
  refine ⟨⟨by decide, by decide, ?_, by decide, fun h => absurd rfl h, fun _ => rfl⟩, rfl⟩
  intro a h
  have : a < 5 := h
  interval_cases a <;> rfl

/-- UnspecifiedBytesNeverReachAResult: the same state with its step enabled. -/
theorem test_witness_unspecified : ({ decoded v6a with start := true } : State).decoderTurn = true ∧
    ({ decoded v6a with start := true } : State).Inv := by
  refine ⟨rfl, ⟨by decide, by decide, ?_, by decide, fun h => absurd rfl h, fun _ => rfl⟩⟩
  intro a h
  have : a < 5 := h
  interval_cases a <;> rfl

/-- HexTextIsReadBack: separators without a hex digit. -/
theorem test_witness_hex :
    (∀ e ∈ ([(0x7E#8, [',', ' ']), (0xE7#8, [])] : List (Byte × List Char)), ∀ c ∈ e.2, hexVal c = none) ∧
    hexPair 0x7E#8 [','] = ['7', 'E', ','] := ⟨by simp [hexVal], by rfl⟩

/-- NoSyncMarkerNoCandidate: S4's second buffer. -/
theorem test_witness_no_sync : ∀ i, ¬ (([0x7E#8, 0x00#8, 0x7E#8] : List Byte)[i]? = some 0x7E#8 ∧
    ([0x7E#8, 0x00#8, 0x7E#8] : List Byte)[i + 1]? = some 0x7E#8) := by
  intro i
  match i with
  | 0 => decide
  | 1 => decide
  | 2 => decide
  | n + 3 => simp

/-- ExtractedCandidatesDecode: length bytes 2 and 0. -/
theorem test_witness_extracted : v6a ∈ extractFrames v6a ∧ v6a[2]? = some 0x02#8 ∧ v6a[3]? ≠ some 0x01#8 ∧
    [0x7E#8, 0x7E#8, 0x00#8] ∈ extractFrames [0x7E#8, 0x7E#8, 0x00#8] := by decide

end Sys2Proof.Tests
end

section
/-! What a decode reads and writes: it writes RES, RES_VALID and nothing else, and what it writes is a function
of the loaded candidate (`N` and the frame bytes below it) alone. -/

namespace Sys2Proof.Machine

/-! ### The hard-error conditions -/

theorem State.earlyError_of_short {s : State} (h : s.n.toNat < Config.minFrameBytes) :
    s.earlyError = some .frameTooShort := if_pos h

/-- Steps 1 and 2 pass exactly on a candidate of five bytes or more that starts with both sync bytes (R81, R82). -/
theorem State.earlyError_eq_none_iff {s : State} :
    s.earlyError = none ↔
      Config.minFrameBytes ≤ s.n.toNat ∧ s.fbByte 0 = Config.sync ∧ s.fbByte 1 = Config.sync := by
  unfold State.earlyError
  split
  · next hn => simp [Nat.not_le.mpr hn]
  · next hn =>
    split
    · next hsync => simp only [reduceCtorEq, false_iff]; tauto
    · next hsync => simp only [true_iff]; exact ⟨Nat.not_lt.mp hn, by tauto⟩

/-- Steps 1, 2 and 5 pass exactly when the early ones do and the whole payload and its checksum byte lie below `N` (R84). -/
theorem State.hardError_eq_none_iff {s : State} {dir : Direction} :
    s.hardError dir = none ↔
      s.earlyError = none ∧ 0 ≤ payloadLength dir (s.fbByte 2) ∧
        (Config.payloadBase : Int) + payloadLength dir (s.fbByte 2) < s.n.toNat := by
  unfold State.hardError
  cases s.earlyError with
  | some e => simp
  | none => simp [not_or]

/-! ### What a decode writes -/

/-- `DECODE_FRAME` writes RES and RES_VALID and changes nothing else. -/
theorem State.decodeFrame_eq_finish (s : State) : s.decodeFrame = s.finish s.decodeFrame.res := by
  unfold State.decodeFrame
  cases s.earlyError with
  | some e => rfl
  | none =>
    obtain ⟨e, -, h⟩ | ⟨-, h⟩ := s.decodeAs_cases (directionOf (s.fbByte 3)) (s.fbByte 3) <;> simp only [h] <;> rfl

/-- A candidate of fewer than five bytes decodes to FrameTooShort. -/
theorem State.decodeFrame_res_of_short {s : State} (h : s.n.toNat < Config.minFrameBytes) :
    s.decodeFrame.res = Res.ofStatus 1 := by
  simp [State.decodeFrame, State.earlyError_of_short h, HardError.code]

/-- The empty candidate, which a reset leaves, decodes to FrameTooShort (R32). -/
theorem State.decodeFrame_res_of_empty {s : State} (h : s.n = 0) : s.decodeFrame.res = Res.ofStatus 1 :=
  State.decodeFrame_res_of_short (by rw [h]; decide)

/-! ### What a decode reads -/

/-- Two states hold the same candidate: the same `N`, and the same frame bytes below it. -/
def State.SameCandidate (s t : State) : Prop :=
  s.n = t.n ∧ ∀ a < s.n.toNat, s.fbByte a = t.fbByte a

namespace State.SameCandidate

variable {s t : State}

theorem fbByte_eq (h : s.SameCandidate t) {a : Nat} (ha : a < s.n.toNat) : s.fbByte a = t.fbByte a := h.2 a ha

theorem fbSlice_eq (h : s.SameCandidate t) {lo len : Nat} (hlen : lo + len ≤ s.n.toNat) :
    s.fbSlice lo len = t.fbSlice lo len :=
  List.map_congr_left fun k hk => h.fbByte_eq (by have := List.mem_range.mp hk; omega)

/-- The sync test is made only when both sync bytes are below `N`. -/
theorem earlyError_eq (h : s.SameCandidate t) : s.earlyError = t.earlyError := by
  unfold State.earlyError
  rw [← h.1]
  split
  · rfl
  · next hn =>
    have h5 : 5 ≤ s.n.toNat := Nat.not_lt.mp hn
    rw [h.fbByte_eq (a := 0) (by omega), h.fbByte_eq (a := 1) (by omega)]

/-- Step 5 reads the length byte, which is below `N` once the early steps have passed. -/
theorem hardError_eq (h : s.SameCandidate t) (dir : Direction) : s.hardError dir = t.hardError dir := by
  unfold State.hardError
  rw [← h.earlyError_eq]
  cases he : s.earlyError with
  | some e => rfl
  | none =>
    have h5 : 5 ≤ s.n.toNat := (State.earlyError_eq_none_iff.mp he).1
    rw [h.fbByte_eq (a := 2) (by omega), h.1]

/-- When step 5 passes, the payload and the checksum byte lie below `N`, so the result reads the candidate only. -/
theorem okResult_eq (h : s.SameCandidate t) {dir : Direction} (hpass : s.hardError dir = none) (command : Byte) :
    s.okResult dir command = t.okResult dir command := by
  obtain ⟨hearly, hnonneg, hfits⟩ := State.hardError_eq_none_iff.mp hpass
  have h5 : 5 ≤ s.n.toNat := (State.earlyError_eq_none_iff.mp hearly).1
  have hchecksum : Config.payloadBase + (payloadLength dir (s.fbByte 2)).toNat < s.n.toNat := by omega
  simp only [State.okResult, ← h.fbByte_eq (a := 2) (by omega), h.fbByte_eq hchecksum, h.fbSlice_eq hchecksum.le]

theorem decodeAs_res_eq (h : s.SameCandidate t) (dir : Direction) (command : Byte) :
    (s.decodeAs dir command).res = (t.decodeAs dir command).res := by
  unfold State.decodeAs
  rw [← h.hardError_eq dir]
  cases hpass : s.hardError dir with
  | some e => rfl
  | none => exact h.okResult_eq hpass command

/-- States that hold the same candidate decode to the same result (R29). -/
theorem decodeFrame_res_eq (h : s.SameCandidate t) : s.decodeFrame.res = t.decodeFrame.res := by
  unfold State.decodeFrame
  rw [← h.earlyError_eq]
  cases he : s.earlyError with
  | some e => rfl
  | none =>
    have h5 : 5 ≤ s.n.toNat := (State.earlyError_eq_none_iff.mp he).1
    rw [← h.fbByte_eq (a := 3) (by omega)]
    exact h.decodeAs_res_eq _ _

end State.SameCandidate

/-- A loaded frame byte does not depend on the number of resets. -/
theorem State.fbByte_resets_of_loaded {s : State} {a : Nat} (h : (Memory.read s.fb a).isSome = true) (k : Nat) :
    ({ s with resets := k } : State).fbByte a = s.fbByte a := by
  obtain ⟨b, hb⟩ := Option.isSome_iff_exists.mp h
  simp [State.fbByte, hb]

end Sys2Proof.Machine
end

section
/-! Whose turn a step is, and the whole next state of each turn. -/

namespace Sys2Proof.Machine

theorem State.resetPending_eq_false {s : State} (h : ∀ later, s.requests ≠ .reset :: later) :
    s.resetPending = false := by
  unfold State.resetPending
  split
  · next later hreq => exact absurd hreq (h later)
  · rfl

theorem State.decoderTurn_iff {s : State} : s.decoderTurn = true ↔ s.start = true ∧ s.resetPending = false := by
  simp [State.decoderTurn]

/-- The decoder's step consumes the enable, writes RES whole and sets RES_VALID; every other part of the state stays. -/
theorem step_decoder_writes {s : State} (h : s.decoderTurn = true) :
    step s = .next { s with start := false, resValid := true, res := s.decodeFrame.res } := by
  have hres : ({ s with start := false } : State).decodeFrame.res = s.decodeFrame.res :=
    State.SameCandidate.decodeFrame_res_eq ⟨rfl, fun _ _ => rfl⟩
  rw [step_decoder h, State.decodeFrame_eq_finish, hres]
  rfl

/-- The state after the decoder's step, from the step's answer. -/
theorem eq_of_step_decoder {s t : State} (h : s.decoderTurn = true) (hstep : step s = .next t) :
    t = { s with start := false, resValid := true, res := s.decodeFrame.res } := by
  rw [step_decoder_writes h] at hstep
  cases hstep
  rfl

/-- With no step enabled, a step takes the oldest request and performs it. -/
theorem step_request {s : State} {op : HostOp} {rest : List HostOp} (hstart : s.start = false)
    (hreq : s.requests = op :: rest) : step s = performRequest op { s with requests := rest } := by
  rw [step_host (State.decoderTurn_of_not_start hstart), hostStep, hreq]

theorem performRequest_load (b : List Byte) (s : State) : performRequest (.load b) s = .next (s.load b) := rfl

theorem performRequest_start (s : State) : performRequest .start s = .next { s with start := true } := rfl

theorem performRequest_read_valid {s : State} (h : s.resValid = true) :
    performRequest .read s = .next { s with out := some (.result s.res) } := if_pos h

theorem performRequest_read_invalid {s : State} (h : s.resValid = false) :
    performRequest .read s = .refused .resNotValid := if_neg (by simp [h])

theorem performRequest_readFrame_below {s : State} {a : Nat} (h : a < s.n.toNat) :
    performRequest (.readFrame a) s = .next { s with out := some (.byte (s.fbByte a)) } := if_pos h

theorem performRequest_readFrame_above {s : State} {a : Nat} (h : s.n.toNat ≤ a) :
    performRequest (.readFrame a) s = .fault (.frameAddress a) := if_neg (Nat.not_lt.mpr h)

end Sys2Proof.Machine
end

section
/-! Every operation on a payload answers a canonical entry (R27): `NOVALUE` has value bits 0. -/

namespace Sys2Proof.Machine

theorem Field.canonical_of_valid {w : Nat} {f : Field w} (h : f.valid = true) : f.canonical = true := by
  simp [Field.canonical, h]

@[simp] theorem Field.none_canonical (w : Nat) : (Field.none w).canonical = true := by
  simp [Field.canonical, Field.none]

/-- A field operation answers a valid entry or `NOVALUE`, whatever its locations. -/
@[simp] theorem fieldOp_canonical (w : Nat) (d : Descriptor) (more : List Descriptor) (p : List Byte) :
    (fieldOp w d more p).canonical = true := by
  unfold fieldOp
  split
  · exact Field.canonical_of_valid rfl
  · exact Field.none_canonical w

/-- The `mode` entry of a canonical field is canonical, with `known` exactly for a valid code up to 4 (R130). -/
theorem modeOf_canonical {f : Field 3} (h : f.canonical = true) : (modeOf f).canonical = true := by
  cases hv : f.valid with
  | true => simp [ModeField.canonical, modeOf, hv]
  | false =>
    have hzero : f.value = 0 := by simpa [Field.canonical, hv] using h
    simp [ModeField.canonical, modeOf, hv, hzero]

@[simp] theorem lookupTemp_canonical (sel : Field 4) (tab : Field 1) : (lookupTemp sel tab).canonical = true := by
  unfold lookupTemp
  split <;> simp [TempField.canonical, TempField.none]

@[simp] theorem noteOf_canonical (d : BitVec 1) : (noteOf d).canonical = true := Field.canonical_of_valid rfl

@[simp] theorem fieldMode_canonical (p : List Byte) : (fieldMode p).canonical = true :=
  modeOf_canonical (fieldOp_canonical ..)

/-- Every entry of DECODE_PAYLOAD is canonical. -/
theorem decodePayload_canonical (p : List Byte) (dir : Direction) : (decodePayload p dir).canonical = true := by
  simp [Fields.canonical, decodePayload, fieldPower, fieldTsel, fieldTtab, fieldFan, fieldFan2, fieldQuiet, fieldTurbo,
    fieldVswing, fieldHswing, fieldDmode, fieldDon, fieldDunitf, fieldPlasma, fieldSleep, fieldXfan, fieldSave,
    fieldBeep, fieldItemp]

end Sys2Proof.Machine
end

section
/-! The statements about the state and the host's operations (10_state.md). -/

namespace Sys2Proof.Machine

/-! ### The decoder's step -/

/-- Settles O8: the step leaves the candidate in place, so the second decode reads the same bytes. -/
theorem secondStartRecomputesTheSameResult : Obligations.SecondStartRecomputesTheSameResult := by
  intro s t hturn hstep
  obtain rfl := eq_of_step_decoder hturn hstep
  obtain ⟨-, hreset⟩ := State.decoderTurn_iff.mp hturn
  refine ⟨fun _ => rfl, rfl, rfl, _, step_decoder_writes (State.decoderTurn_iff.mpr ⟨rfl, hreset⟩), ?_, rfl⟩
  exact State.SameCandidate.decodeFrame_res_eq ⟨rfl, fun _ _ => rfl⟩

/-- Settles O9: no step of DECODE_FRAME reads a frame byte at or above `N`. -/
theorem resultDependsOnTheCandidateAlone : Obligations.ResultDependsOnTheCandidateAlone := by
  intro s₁ s₂ t₁ t₂ hturn₁ hturn₂ hn hbytes hstep₁ hstep₂
  obtain rfl := eq_of_step_decoder hturn₁ hstep₁
  obtain rfl := eq_of_step_decoder hturn₂ hstep₂
  exact State.SameCandidate.decodeFrame_res_eq ⟨hn, hbytes⟩

/-- Settles O49: the invariant has every byte below `N` loaded, so another number of resets leaves the candidate the
same. -/
theorem unspecifiedBytesNeverReachAResult : Obligations.UnspecifiedBytesNeverReachAResult := by
  intro s t u k hinv hturn hstep hstep'
  refine resultDependsOnTheCandidateAlone s { s with resets := k } t u hturn hturn rfl ?_ hstep hstep'
  intro a ha
  exact (State.fbByte_resets_of_loaded (hinv.candidateLoaded a ha) k).symm

/-! ### The result's entries -/

/-- Settles O38: each row answers a valid entry or `NOVALUE`. -/
theorem invalidEntriesAreZero : Obligations.InvalidEntriesAreZero := decodePayload_canonical

/-! ### The host's operations and reset -/

/-- Settles O40, from the laws of LOAD on the frame buffer. -/
theorem loadStoresTheCandidate : Obligations.LoadStoresTheCandidate := by
  intro s b rest hstart hreq
  refine ⟨_, (step_request hstart hreq).trans (performRequest_load b _), State.load_n_toNat _ b, rfl, rfl, hstart, rfl,
    rfl, rfl, fun i hi => ?_, fun i hi => ?_⟩
  · have htaken : i < (b.take Config.nMax).length := by rwa [List.length_take]
    have hlen : i < b.length := by omega
    rw [State.load_fbByte, if_pos htaken]
    simp [hlen]
  · have hkept : ¬ i < (b.take Config.nMax).length := by rw [List.length_take]; exact Nat.not_lt.mpr hi
    rw [State.load_fbByte, if_neg hkept]
    rfl

/-- Settles O41: READ by RES_VALID, a read of a frame byte by its index against `N`. -/
theorem readsAnswerOnlyWhatIsDefined : Obligations.ReadsAnswerOnlyWhatIsDefined := by
  intro s rest hstart
  refine ⟨fun hreq => ⟨fun hvalid => ?_, fun hinvalid => ?_⟩, fun a hreq => ⟨fun hbelow => ?_, fun habove => ?_⟩⟩ <;>
    rw [step_request hstart hreq]
  · exact performRequest_read_valid hvalid
  · exact performRequest_read_invalid hinvalid
  · exact performRequest_readFrame_below hbelow
  · exact performRequest_readFrame_above habove

/-- Settles O44: the reset leaves `N = 0`, below the smallest frame, and START enables the decode of that. -/
theorem startAfterResetIsFrameTooShort : Obligations.StartAfterResetIsFrameTooShort := by
  intro s rest hreq hrest
  refine ⟨_, _, _, step_reset hreq, rfl, rfl, rfl, rfl,
    (step_request rfl rfl).trans (performRequest_start _), rfl, step_decoder_writes ?_, rfl, ?_, rfl, rfl⟩
  · exact State.decoderTurn_iff.mpr ⟨rfl, State.resetPending_eq_false hrest⟩
  · exact State.decodeFrame_res_of_empty rfl

end Sys2Proof.Machine
end

section
/-! What a successful decode has passed and leaves, which bytes of the candidate it needs, and that the byte sum does
not depend on the order of the bytes. -/

namespace Sys2Proof.Machine

/-! ### The byte sum -/

/-- Permuted byte strings have the same sum: it is a sum of naturals before it is reduced modulo 256. -/
theorem sum8_perm {p q : List Byte} (h : p.Perm q) : sum8 p = sum8 q :=
  BitVec.eq_of_toNat_eq (by rw [sum8_toNat, sum8_toNat, (h.map BitVec.toNat).sum_eq])

/-! ### The frame of a command case -/

/-- One command case of `DECODE_FRAME` writes RES and RES_VALID and changes nothing else. -/
theorem State.decodeAs_eq_finish (s : State) (dir : Direction) (command : Byte) :
    s.decodeAs dir command = s.finish (s.decodeAs dir command).res := by
  obtain ⟨e, -, h⟩ | ⟨-, h⟩ := s.decodeAs_cases dir command <;> simp only [h] <;> rfl

theorem State.finish_sameOutsideResult (s : State) (r : Res) : Claims.SameOutsideResult s (s.finish r) :=
  ⟨fun _ => rfl, rfl, rfl, rfl, rfl, rfl, rfl⟩

/-! ### The payload length -/

/-- The payload length is at most 253, whatever the length byte (R83). -/
theorem payloadLength_toNat_le (dir : Direction) (len : Byte) : (payloadLength dir len).toNat ≤ 253 := by
  cases dir with
  | set => simp [payloadLength, Config.setPayloadLen]
  | report => simp only [payloadLength, Config.lenOverhead]; omega

/-- The byte `RES.payload_len` holds the whole payload length. -/
theorem State.okResult_payloadLen_toNat (s : State) (dir : Direction) (command : Byte) :
    (s.okResult dir command).payloadLen.toNat = (payloadLength dir (s.fbByte 2)).toNat := by
  have hle := payloadLength_toNat_le dir (s.fbByte 2)
  exact Nat.mod_eq_of_lt (by omega)

/-! ### A decode that succeeds -/

theorem HardError.code_ne_statusOk (e : HardError) : e.code ≠ statusOk := by cases e <;> decide

/-- A candidate that passes the checks of its own direction decodes to the whole result (R152). -/
theorem State.decodeFrame_res_of_pass {s : State} (h : s.hardError (directionOf (s.fbByte 3)) = none) :
    s.decodeFrame.res = s.okResult (directionOf (s.fbByte 3)) (s.fbByte 3) := by
  simp [State.decodeFrame, State.decodeAs, (State.hardError_eq_none_iff.mp h).1, h]

/-- Status OK is left exactly by a candidate that passes the checks of its own direction. -/
theorem State.decodeFrame_ok_iff {s : State} :
    s.decodeFrame.res.status = statusOk ↔ s.hardError (directionOf (s.fbByte 3)) = none := by
  refine ⟨fun h => ?_, fun h => by rw [State.decodeFrame_res_of_pass h]; rfl⟩
  unfold State.decodeFrame at h
  cases hearly : s.earlyError with
  | some e => simp [hearly, e.code_ne_statusOk] at h
  | none =>
    obtain ⟨e, -, hraise⟩ | ⟨hpass, -⟩ := s.decodeAs_cases (directionOf (s.fbByte 3)) (s.fbByte 3)
    · simp [hearly, hraise, e.code_ne_statusOk] at h
    · exact hpass

/-- The checks that a candidate passes it still passes with any other `N` that covers the four bytes of the header, the
payload and the checksum byte (R42, R84). -/
theorem State.hardError_eq_none_of_covers {s : State} {dir : Direction} {m : BitVec 9} (h : s.hardError dir = none)
    (hm : 5 + (payloadLength dir (s.fbByte 2)).toNat ≤ m.toNat) : ({ s with n := m } : State).hardError dir = none := by
  obtain ⟨hearly, hnonneg, -⟩ := State.hardError_eq_none_iff.mp h
  obtain ⟨-, hsync₀, hsync₁⟩ := State.earlyError_eq_none_iff.mp hearly
  have hfloor : Config.minFrameBytes ≤ m.toNat := le_trans (Nat.le_add_right 5 _) hm
  have hfits : (Config.payloadBase : Int) + payloadLength dir (s.fbByte 2) < m.toNat := by
    simp only [Config.payloadBase]; omega
  exact State.hardError_eq_none_iff.mpr ⟨State.earlyError_eq_none_iff.mpr ⟨hfloor, hsync₀, hsync₁⟩, hnonneg, hfits⟩

end Sys2Proof.Machine
end

section
/-! The statements about the frame buffer as memory (20_memory.md). -/

namespace Sys2Proof.Machine

/-- Settles O10: with `N` cut to `5 + plen` the candidate still passes the checks, and the whole result of a candidate
that passes does not read `N`. -/
theorem bytesAboveTheChecksumAreIgnored : Obligations.BytesAboveTheChecksumAreIgnored := by
  rintro s t ⟨hturn, hstep, hok⟩
  obtain rfl := eq_of_step_decoder hturn hstep
  have hpass := State.decodeFrame_ok_iff.mp hok
  have hres := State.decodeFrame_res_of_pass hpass
  have hle := payloadLength_toNat_le (directionOf (s.fbByte 3)) (s.fbByte 2)
  have hcut : (BitVec.ofNat 9 (5 + (payloadLength (directionOf (s.fbByte 3)) (s.fbByte 2)).toNat)).toNat =
      5 + (payloadLength (directionOf (s.fbByte 3)) (s.fbByte 2)).toNat := Nat.mod_eq_of_lt (by omega)
  refine ⟨_, step_decoder_writes hturn, ?_⟩
  simp only [hres, State.okResult_payloadLen_toNat]
  exact State.decodeFrame_res_of_pass (State.hardError_eq_none_of_covers hpass hcut.ge)

/-- Settles O15: the payload enters the checksum only through its byte sum. -/
theorem checksumIgnoresPayloadOrder : Obligations.ChecksumIgnoresPayloadOrder := by
  intro p q len cmd hperm
  rw [checksumCalc, checksumCalc, sum8_perm hperm]

/-- Settles O20: each command case is a decode in one direction, which ends by writing RES whole. -/
theorem commandCasesWriteOnlyTheResult : Obligations.CommandCasesWriteOnlyTheResult := by
  intro i s t hcase hexec
  have hformat : i.format = .command := by obtain rfl | rfl | ⟨c, rfl⟩ := hcase <;> rfl
  obtain ⟨dir, c, hnext⟩ := exec_command_next hformat s
  rw [hnext, State.decodeAs_eq_finish] at hexec
  cases hexec
  exact ⟨s.finish_sameOutsideResult _, rfl⟩

end Sys2Proof.Machine
end

section
/-! What the encodings spell: each command byte's case, direction and payload length, the bit positions of a packed
descriptor, and the rows the descriptor ROM holds. -/

namespace Sys2Proof

open Machine

/-! ### The command byte (R62) -/

@[simp] theorem decodeCommand_set : decodeCommand 0x01#8 = .frameSet := rfl

@[simp] theorem decodeCommand_report : decodeCommand 0x31#8 = .frameReport := rfl

theorem decodeCommand_other {c : Byte} (hset : c ≠ 0x01#8) (hreport : c ≠ 0x31#8) :
    decodeCommand c = .frameOther c := by
  rw [decodeCommand, if_neg hset, if_neg hreport]

@[simp] theorem directionOf_set : directionOf 0x01#8 = .set := rfl

theorem directionOf_of_ne_set {c : Byte} (h : c ≠ 0x01#8) : directionOf c = .report := if_neg h

@[simp] theorem payloadLength_set (len : Byte) : payloadLength .set len = 45 := rfl

@[simp] theorem payloadLength_report (len : Byte) : payloadLength .report len = (len.toNat : Int) - 2 := rfl

/-! ### The packed descriptor (R65) -/

/-- The packed word is its five parts side by side over two zero bits. -/
theorem Descriptor.pack_eq_append (d : Descriptor) :
    d.pack = (d.off ++ d.mask ++ d.shift ++ d.interp.code ++ BitVec.ofBool d.cont ++ 0#2).setWidth 24 := by
  simp only [BitVec.setWidth_append_eq_shiftLeft_setWidth_or, BitVec.shiftLeft_or_distrib, ← BitVec.shiftLeft_add,
    BitVec.setWidth_zero, BitVec.or_zero]
  rfl

/-- R65's bit positions, read off the concatenation. -/
theorem Descriptor.pack_parts (d : Descriptor) :
    d.pack.extractLsb' 18 6 = d.off ∧ d.pack.extractLsb' 10 8 = d.mask ∧ d.pack.extractLsb' 7 3 = d.shift ∧
      d.pack.extractLsb' 3 4 = d.interp.code ∧ d.pack.getLsbD 2 = d.cont ∧ d.pack.extractLsb' 0 2 = 0#2 := by
  rw [pack_eq_append]
  refine ⟨?off, ?mask, ?shift, ?interp, ?cont, ?zero⟩
  case cont =>
    rw [BitVec.getLsbD_setWidth, BitVec.getLsbD_append, BitVec.getLsbD_append]
    simp
  all_goals
    simp (disch := decide) only [BitVec.extractLsb'_setWidth_of_le, BitVec.extractLsb'_append_eq_of_le, Nat.reduceSub,
      BitVec.extractLsb'_append_eq_right, BitVec.extractLsb'_eq_self]

theorem Interp.code_toNat_lt (i : Interp) : i.code.toNat < 8 := by cases i <;> decide

/-! ### The descriptor ROM (R66) -/

/-- A row found for a word stands in the list. -/
theorem mem_of_findRow {w : RomWord} {i : Instr} {rows : List (RomWord × Instr)} (h : findRow w rows = some i) :
    (w, i) ∈ rows := by
  induction rows with
  | nil => simp [findRow] at h
  | cons r rows ih =>
    obtain ⟨k, j⟩ := r
    rw [findRow] at h
    split at h
    next hword => cases h; simp [hword]
    next => exact List.mem_cons_of_mem _ (ih h)

/-- Where no word stands twice, each row of the list is found for its word. -/
theorem findRow_of_mem {w : RomWord} {i : Instr} {rows : List (RomWord × Instr)}
    (hnodup : (rows.map Prod.fst).Nodup) (h : (w, i) ∈ rows) : findRow w rows = some i := by
  induction rows with
  | nil => simp at h
  | cons r rows ih =>
    obtain ⟨k, j⟩ := r
    obtain ⟨hfresh, hnodup⟩ := List.nodup_cons.mp hnodup
    rcases List.mem_cons.mp h with heq | hmem
    · cases heq; exact if_pos rfl
    · have hne : w ≠ k := fun hword => hfresh (List.mem_map.mpr ⟨_, hmem, hword⟩)
      rw [findRow, if_neg hne, ih hnodup hmem]

theorem romRows_words_nodup : (romRows.map Prod.fst).Nodup := by decide

/-- The ROM word column of R66 is the packing of the columns beside it. -/
theorem mem_romRows_iff {w : RomWord} {i : Instr} :
    (w, i) ∈ romRows ↔ ∃ d, descriptorOf i = some d ∧ d.pack = w := by
  constructor
  · have hrows : ∀ r ∈ romRows, (descriptorOf r.2).map Descriptor.pack = some r.1 := by decide
    exact fun h => Option.map_eq_some_iff.mp (hrows _ h)
  · rintro ⟨d, hd, rfl⟩
    cases i <;> cases hd <;> decide

theorem findRow_romRows_iff {w : RomWord} {i : Instr} :
    findRow w romRows = some i ↔ ∃ d, descriptorOf i = some d ∧ d.pack = w :=
  ⟨fun h => mem_romRows_iff.mp (mem_of_findRow h), fun h => findRow_of_mem romRows_words_nodup (mem_romRows_iff.mpr h)⟩

/-! ### Reading a descriptor word (R65, R66) -/

/-- A packed descriptor has no reserved bit set and no reserved interpreter code, so that the ROM alone decides. -/
theorem decodeDescriptor_pack (d : Descriptor) (i : Instr) :
    decodeDescriptor d.pack = .ok i ↔ findRow d.pack romRows = some i := by
  obtain ⟨-, -, -, hinterp, -, hzero⟩ := d.pack_parts
  have hcode := d.interp.code_toNat_lt
  rw [decodeDescriptor, if_neg (by simp [hzero]), if_neg (by rw [hinterp]; omega)]
  cases findRow d.pack romRows <;> simp

theorem findRow_of_decodeDescriptor {w : RomWord} {i : Instr} (h : decodeDescriptor w = .ok i) :
    findRow w romRows = some i := by
  simp only [decodeDescriptor] at h
  split_ifs at h
  cases hrow : findRow w romRows with
  | none => simp [hrow] at h
  | some j => simpa [hrow] using h

theorem decodeDescriptor_ok_iff {w : RomWord} {i : Instr} :
    decodeDescriptor w = .ok i ↔ ∃ d, descriptorOf i = some d ∧ d.pack = w := by
  constructor
  · exact fun h => findRow_romRows_iff.mp (findRow_of_decodeDescriptor h)
  · rintro ⟨d, hd, rfl⟩
    exact (decodeDescriptor_pack d i).mpr (findRow_romRows_iff.mpr ⟨d, hd, rfl⟩)

theorem decodeDescriptor_row {i : Instr} {d : Descriptor} (h : descriptorOf i = some d) :
    decodeDescriptor d.pack = .ok i := decodeDescriptor_ok_iff.mpr ⟨d, h, rfl⟩

end Sys2Proof
end

section
/-! The statements about the encodings (30_encoding.md). -/

namespace Sys2Proof

open Machine

/-- Settles O4: the word column of the ROM is the packing of its other columns, and the checks on reserved bits reject no
packed descriptor. -/
theorem descriptorWordsFollowThePacking : Obligations.DescriptorWordsFollowThePacking :=
  ⟨fun _ _ => decodeDescriptor_ok_iff, Descriptor.pack_parts⟩

/-- Settles O1: each three-byte word is the packed descriptor of its row. -/
theorem specWordsDecodeToTheirRows : Obligations.SpecWordsDecodeToTheirRows :=
  ⟨rfl, rfl, rfl, decodeDescriptor_row (i := .fxPower) rfl, decodeDescriptor_row (i := .fxMode) rfl,
    decodeDescriptor_row (i := .fxFan) rfl, decodeDescriptor_row (i := .fxPlasma) rfl,
    decodeDescriptor_row (i := .fxBeep) rfl, decodeDescriptor_row (i := .fxItemp) rfl⟩

/-- Settles O5, by the selector's two comparisons: each of the three cases gives the operation and the direction. -/
theorem commandByteSelectsOneOfThreeCases : Obligations.CommandByteSelectsOneOfThreeCases := by
  intro c
  by_cases hset : c = 0x01#8
  · subst hset
    simp
  · have hdir := directionOf_of_ne_set hset
    by_cases hreport : c = 0x31#8
    · subst hreport
      simp [hdir]
    · have hother := decodeCommand_other hset hreport
      simp [hother, hdir, hset, hreport, eq_comm]

end Sys2Proof
end

section
/-! The checks of DECODE_FRAME as equations on `N` and the frame bytes, what a command case answers on either side of
them, and when an entry of DECODE_PAYLOAD is valid. -/

namespace Sys2Proof.Machine

open Claims

/-! ### The hard-error conditions -/

theorem State.earlyError_of_wrong_sync {s : State} (hn : Config.minFrameBytes ≤ s.n.toNat)
    (h : s.fbByte 0 ≠ Config.sync ∨ s.fbByte 1 ≠ Config.sync) : s.earlyError = some .missingSync := by
  rw [State.earlyError, if_neg (Nat.not_lt.mpr hn), if_pos h]

theorem State.hardError_of_earlyError {s : State} {e : HardError} (h : s.earlyError = some e) (dir : Direction) :
    s.hardError dir = some e := by simp [State.hardError, h]

/-- Step 5 in the integers: a negative payload length, or a candidate that ends before its checksum byte (R84). -/
theorem State.hardError_of_truncated {s : State} {dir : Direction} (hearly : s.earlyError = none)
    (h : payloadLength dir (s.fbByte 2) < 0 ∨ (s.n.toNat : Int) ≤ 4 + payloadLength dir (s.fbByte 2)) :
    s.hardError dir = some .frameTruncated := by
  simp only [State.hardError, hearly]
  exact if_pos h

/-! ### The command cases -/

@[simp] theorem exec_frameSet (s : State) : exec .frameSet s = .next (s.decodeAs .set 0x01#8) := rfl

@[simp] theorem exec_frameReport (s : State) : exec .frameReport s = .next (s.decodeAs .report 0x31#8) := rfl

@[simp] theorem exec_frameOther (c : Byte) (s : State) : exec (.frameOther c) s = .next (s.decodeAs .report c) := rfl

/-- A hard error leaves its code in an otherwise zero RES and sets RES_VALID (R153, R187). -/
theorem State.decodeAs_of_hardError {s : State} {dir : Direction} {e : HardError} (h : s.hardError dir = some e)
    (command : Byte) : s.decodeAs dir command = { s with res := Res.ofStatus e.code, resValid := true } := by
  simp only [State.decodeAs, h]
  rfl

/-- The checksum verdict in the integers (R85, R86). -/
theorem checksumOk_eq (len command : Byte) (p : List Byte) (checksum : Byte) :
    checksumOk len command p checksum =
      decide ((len.toNat + command.toNat + (p.map BitVec.toNat).sum) % 256 = checksum.toNat) := by
  simp [checksumOk, checksumCalc, ← BitVec.toNat_inj, BitVec.toNat_add, sum8_toNat]

theorem directionBit_eq (dir : Direction) : directionBit dir = if dir = .set then 1 else 0 := by cases dir <;> rfl

/-- The result of a decode that passes is the one R152 lists for its payload length. -/
theorem State.okResult_eq_passResult (s : State) (dir : Direction) (command : Byte) :
    s.okResult dir command = passResult s dir command (payloadLength dir (s.fbByte 2)).toNat := by
  simp only [State.okResult, passResult, checksumOk_eq, directionBit_eq, State.fbSlice, List.map_map]
  rfl

/-- A candidate that passes the checks in a direction leaves the whole result of R152 and sets RES_VALID. -/
theorem State.decodeAs_of_pass {s : State} {dir : Direction} (h : s.hardError dir = none) (command : Byte) :
    s.decodeAs dir command =
      { s with res := passResult s dir command (payloadLength dir (s.fbByte 2)).toNat, resValid := true } := by
  rw [← State.okResult_eq_passResult]
  simp only [State.decodeAs, h]
  rfl

/-! ### Valid entries -/

/-- A field with one location is valid exactly when the payload is longer than its offset. -/
theorem fieldOp_one_valid_iff {w : Nat} (d : Descriptor) {p : List Byte} :
    (fieldOp w d [] p).valid = true ↔ d.off.toNat < p.length := by
  rw [fieldOp_valid, decide_eq_true_iff]

/-- `plasma` needs both its bytes, the later of which is payload byte 6 (R113). -/
theorem fieldPlasma_valid_iff {p : List Byte} : (fieldPlasma p).valid = true ↔ 6 < p.length := by
  rw [fieldPlasma, fieldOp_two]
  by_cases h : 6 < p.length
  · have h₀ : 0 < p.length := by omega
    simp [descPlasma, descPlasma2, h, h₀]
  · simp [descPlasma, h, Field.none]

theorem lookupTemp_valid (sel : Field 4) (tab : Field 1) :
    (lookupTemp sel tab).valid = (sel.valid && tab.valid) := by
  unfold lookupTemp
  split
  · next h => exact h.symm
  · next h => exact (Bool.eq_false_of_not_eq_true h).symm

/-- `target_temp` needs both the entries it is looked up from, the later of which is at payload byte 7 (R135). -/
theorem lookupTemp_valid_iff {p : List Byte} :
    (lookupTemp (fieldTsel p) (fieldTtab p)).valid = true ↔ 7 < p.length := by
  have hsel : (fieldTsel p).valid = true ↔ 5 < p.length := fieldOp_one_valid_iff descTsel
  have htab : (fieldTtab p).valid = true ↔ 7 < p.length := fieldOp_one_valid_iff descTtab
  rw [lookupTemp_valid, Bool.and_eq_true, hsel, htab]
  omega

/-- An entry of DECODE_PAYLOAD is valid exactly when the payload reaches its threshold, one more than the row's offset
(R101). -/
theorem decodePayload_valid_iff (p : List Byte) (dir : Direction) :
    ∀ v ∈ thresholds (decodePayload p dir), (v.1 = true ↔ v.2 ≤ p.length) := by
  simp only [thresholds, decodePayload, List.cons_append, List.nil_append, List.forall_mem_cons]
  exact ⟨fieldOp_one_valid_iff descPower, fieldOp_one_valid_iff descMode, fieldOp_one_valid_iff descFan2,
    fieldOp_one_valid_iff descSleep, fieldOp_one_valid_iff descTsel, fieldOp_one_valid_iff descTurbo,
    fieldOp_one_valid_iff descDon, fieldPlasma_valid_iff, fieldOp_one_valid_iff descXfan, fieldOp_one_valid_iff descTtab,
    fieldOp_one_valid_iff descDunitf, lookupTemp_valid_iff, fieldOp_one_valid_iff descVswing,
    fieldOp_one_valid_iff descHswing, fieldOp_one_valid_iff descDmode, fieldOp_one_valid_iff descSave,
    fieldOp_one_valid_iff descQuiet, fieldOp_one_valid_iff descFan, fieldOp_one_valid_iff descBeep,
    fieldOp_one_valid_iff descItemp, iff_of_true rfl (Nat.zero_le _), List.forall_mem_nil _⟩

theorem thresholds_le (f : Fields) : ∀ v ∈ thresholds f, v.2 ≤ 43 := by simp [thresholds]

/-! ### Fetching an instruction -/

/-- Once the early steps have passed, the decoder's step runs the operation of the command byte. -/
theorem step_decoder_exec {s : State} (hturn : s.decoderTurn = true) (hearly : s.earlyError = none) :
    step s = exec (decodeCommand (s.fbByte 3)) { s with start := false } := by
  have hsame : ({ s with start := false } : State).earlyError = none := hearly
  rw [step, machineStep, if_pos hturn]
  simp only [decoderStep, hsame]
  rfl

theorem decodeCommand_format (c : Byte) : (decodeCommand c).format = .command := by
  unfold decodeCommand
  split_ifs <;> rfl

/-- Bytes that decode to no command case are the bytes of a row. -/
theorem decodeRow_of_decode {w : List Byte} {i : Instr} (h : decode w = .ok i) (hformat : i.format ≠ .command) :
    decodeRow w = .ok i := by
  unfold decode at h
  split at h
  · next c =>
    cases h
    exact absurd (decodeCommand_format c) hformat
  · exact h

/-- A row request with a successful result in RES runs the row. -/
theorem rowStep_of_ok {w : List Byte} {i : Instr} {s : State} (h : decodeRow w = .ok i) (hvalid : s.resValid = true)
    (hok : s.res.status = statusOk) : rowStep w s = exec i s := by
  simp [rowStep, h, hvalid, hok]

end Sys2Proof.Machine
end

section
/-! The statements about the validation of a frame (40_frame_validation.md). -/

namespace Sys2Proof.Machine

/-! ### The three command cases -/

/-- Settles O18: the early steps do not look at the case. -/
theorem commandCasesReportTheEarlyErrors : Obligations.CommandCasesReportTheEarlyErrors := by
  intro i s hformat
  obtain ⟨dir, c, hnext⟩ := exec_command_next hformat s
  rw [hnext]
  refine ⟨fun hshort => ?_, fun hlong hsync => ?_⟩
  · rw [State.decodeAs_of_hardError (State.hardError_of_earlyError (State.earlyError_of_short hshort) dir)]
    rfl
  · rw [State.decodeAs_of_hardError (State.hardError_of_earlyError (State.earlyError_of_wrong_sync hlong hsync) dir)]
    rfl

/-- Settles O17: each case's payload length, in the integers, fails step 5. -/
theorem commandCasesTruncate : Obligations.CommandCasesTruncate := by
  intro s hlong hsync₀ hsync₁
  have hearly := State.earlyError_eq_none_iff.mpr ⟨hlong, hsync₀, hsync₁⟩
  refine ⟨fun hshort => ?_, fun hshort => ?_⟩
  · have herror : s.hardError .set = some .frameTruncated :=
      State.hardError_of_truncated hearly (by rw [payloadLength_set]; omega)
    rw [exec_frameSet, State.decodeAs_of_hardError herror]
    rfl
  · have herror : s.hardError .report = some .frameTruncated :=
      State.hardError_of_truncated hearly (by rw [payloadLength_report]; omega)
    simp only [exec_frameReport, exec_frameOther, State.decodeAs_of_hardError herror]
    exact ⟨rfl, fun _ => rfl⟩

/-- Settles O16: 50 bytes hold a payload of 45 and its checksum byte, and no threshold is above 43. -/
theorem frameSetCompletes : Obligations.FrameSetCompletes := by
  intro s hlong hsync₀ hsync₁
  refine ⟨?_, List.all_eq_true.mpr fun v hv => ?_⟩
  · have hpass : s.hardError .set = none := State.hardError_eq_none_iff.mpr
      ⟨State.earlyError_eq_none_iff.mpr ⟨le_trans (by decide) hlong, hsync₀, hsync₁⟩, by simp, by
        simp only [payloadLength_set, Config.payloadBase]; omega⟩
    rw [exec_frameSet, State.decodeAs_of_pass hpass]
    rfl
  · have hreach := (thresholds_le _ v hv).trans (show 43 ≤ 45 by decide)
    exact (decodePayload_valid_iff _ _ v hv).mpr (by simpa using hreach)

/-- Settles O19: with `length >= 2` and `length + 3` bytes the payload and its checksum byte lie below `N`. -/
theorem frameReportAndOtherComplete : Obligations.FrameReportAndOtherComplete := by
  intro s hsync₀ hsync₁ hlen hfits
  have hfloor : 5 ≤ s.n.toNat := by omega
  have hpass : s.hardError .report = none := State.hardError_eq_none_iff.mpr
    ⟨State.earlyError_eq_none_iff.mpr ⟨hfloor, hsync₀, hsync₁⟩, by rw [payloadLength_report]; omega, by
      simp only [payloadLength_report, Config.payloadBase]; omega⟩
  have hplen : (payloadLength .report (s.fbByte 2)).toNat = (s.fbByte 2).toNat - 2 := by
    rw [payloadLength_report]; omega
  simp only [exec_frameReport, exec_frameOther, State.decodeAs_of_pass hpass, hplen, implies_true, and_self]

/-! ### A decoder's step that succeeds -/

/-- Settles O11: status OK means that no check of the candidate's own direction fails. -/
theorem decodeSucceedsExactlyWhen : Obligations.DecodeSucceedsExactlyWhen := by
  intro s t hturn hstep
  obtain rfl := eq_of_step_decoder hturn hstep
  refine State.decodeFrame_ok_iff.trans ?_
  rw [State.hardError_eq_none_iff, State.earlyError_eq_none_iff, and_assoc, and_assoc]
  refine and_congr .rfl (and_congr .rfl (and_congr .rfl ?_))
  by_cases hset : s.fbByte 3 = 0x01#8
  · simp only [hset, directionOf_set, payloadLength_set, Config.payloadBase, true_and, ne_eq, not_true_eq_false,
      false_and, or_false]
    omega
  · simp only [hset, directionOf_of_ne_set hset, payloadLength_report, Config.payloadBase, false_and, false_or, ne_eq,
      not_false_eq_true, true_and]
    omega

/-- Settles O14: a successful decode leaves the whole result, with the verdict as one of its entries. -/
theorem checksumVerdictIsTheModularSum : Obligations.ChecksumVerdictIsTheModularSum := by
  rintro s t ⟨hturn, hstep, hok⟩
  obtain rfl := eq_of_step_decoder hturn hstep
  have hres := State.decodeFrame_res_of_pass (State.decodeFrame_ok_iff.mp hok)
  have hpayload : State.payload { s with start := false, resValid := true, res := s.decodeFrame.res } =
      s.fbSlice Config.payloadBase (payloadLength (directionOf (s.fbByte 3)) (s.fbByte 2)).toNat := by
    rw [← State.okResult_payloadLen_toNat s _ (s.fbByte 3), ← hres]
    rfl
  rw [hpayload]
  simp only [hres, State.okResult_payloadLen_toNat]
  refine ⟨?_, rfl, rfl⟩
  simp only [State.okResult, checksumOk_eq, decide_eq_true_eq]

/-! ### The step -/

/-- Settles O6: the decoder's step fetches the command byte, the host's step the bytes of the row request. -/
theorem stepRunsTheDecodedInstruction : Obligations.StepRunsTheDecodedInstruction := by
  refine ⟨fun s i hturn hlong hsync₀ hsync₁ hdecode => ?_,
    fun s w rest i hstart hreq hvalid hok hdecode hformat => ?_⟩
  · cases hdecode
    exact step_decoder_exec hturn (State.earlyError_eq_none_iff.mpr ⟨hlong, hsync₀, hsync₁⟩)
  · exact (step_request hstart hreq).trans (rowStep_of_ok (decodeRow_of_decode hdecode hformat) hvalid hok)

end Sys2Proof.Machine
end

section
/-! What a row of the table makes of a payload: an entry of one named bit or of a group of named bits, read at frame
index 4 + offset; and which entry of RES each row writes. -/

namespace Sys2Proof

open Machine

/-! ### The bits a descriptor names (R65, R102, R103) -/

/-- The descriptor reads bit `k` of its byte as a flag: its mask is that bit alone, and its interpreter asks only
whether the raw value is 0 (R102). -/
abbrev Descriptor.NamesBit (d : Descriptor) (k : Nat) : Prop :=
  d.interp ∈ [.bool, .tempSel, .beeper] ∧ k < 8 ∧ d.mask = BitVec.twoPow 8 k ∧ d.shift.toNat ≤ k

/-- The descriptor reads `w` adjacent bits of its byte, from its shift upwards, as a number: its mask has all of
them, and its interpreter passes the raw value on (R103). -/
abbrev Descriptor.NamesBits (d : Descriptor) (w : Nat) : Prop :=
  d.interp ∈ [.uint, .enumMode, .enumDisp, .tempIdx] ∧ ∀ i < w, d.mask.getLsbD (d.shift.toNat + i) = true

end Sys2Proof

namespace Sys2Proof.Machine

open Claims

theorem interpret_flag {i : Interp} (h : i ∈ [.bool, .tempSel, .beeper]) (raw : Byte) :
    interpret i raw = if raw = 0 then 0 else 1 := by
  fin_cases h <;> rfl

theorem interpret_number {i : Interp} (h : i ∈ [.uint, .enumMode, .enumDisp, .tempIdx]) (raw : Byte) :
    interpret i raw = raw.setWidth 9 := by
  fin_cases h <;> rfl

/-- A flag of one bit is that bit, wherever at or below its place the shift leaves it. -/
theorem interpret_bit {d : Descriptor} {k : Nat} (h : d.NamesBit k) (b : Byte) :
    (interpret d.interp ((b &&& d.mask) >>> d.shift.toNat)).setWidth 1 = bit b k := by
  obtain ⟨hinterp, hk, hmask, hshift⟩ := h
  have hset : ¬ BitVec.twoPow 8 k >>> d.shift.toNat = 0#8 := fun hzero => by
    have hbit := congrArg (·.getLsbD (k - d.shift.toNat)) hzero
    simp [hshift, hk] at hbit
  rw [interpret_flag hinterp, hmask, BitVec.and_twoPow, bit]
  cases b.getLsbD k <;> simp [hset]

/-- A flag over two raw values is set exactly when one of the two flags is (R113). -/
theorem interpret_bool_or (a b : Byte) : interpret .bool (a ||| b) = interpret .bool a ||| interpret .bool b := by
  by_cases ha : a = 0#8 <;> by_cases hb : b = 0#8 <;> simp [interpret, ha, hb]

/-- A number of adjacent named bits is those bits of the byte. -/
theorem interpret_bits {d : Descriptor} {w : Nat} (h : d.NamesBits w) (b : Byte) :
    (interpret d.interp ((b &&& d.mask) >>> d.shift.toNat)).setWidth w = b.extractLsb' d.shift.toNat w := by
  obtain ⟨hinterp, hmask⟩ := h
  rw [interpret_number hinterp]
  ext i hi
  have hinside : d.shift.toNat + i < 8 := BitVec.lt_of_getLsbD (hmask i hi)
  have hwide : i < 9 := by omega
  have hwide' : d.shift.toNat + i < 9 := by omega
  simp [hwide, hwide', hmask i hi]

/-! ### Entries read from the frame buffer -/

/-- A field with one location, on `plen` frame bytes from index 4: its raw value interpreted, or `NOVALUE`. -/
theorem fieldOp_one_fbSlice (s : State) (plen w : Nat) (d : Descriptor) :
    fieldOp w d [] (s.fbSlice Config.payloadBase plen) = entry plen d.off.toNat ((interpret d.interp
      ((s.fbByte (Config.payloadBase + d.off.toNat) &&& d.mask) >>> d.shift.toNat)).setWidth w) := by
  rw [fieldOp_one, State.fbSlice_getElem?, entry]
  split_ifs <;> rfl

theorem fieldOp_bit_fbSlice (s : State) (plen : Nat) {d : Descriptor} {k : Nat} (h : d.NamesBit k) :
    fieldOp 1 d [] (s.fbSlice Config.payloadBase plen) =
      entry plen d.off.toNat (bit (s.fbByte (Config.payloadBase + d.off.toNat)) k) := by
  rw [fieldOp_one_fbSlice, interpret_bit h]

theorem fieldOp_bits_fbSlice (s : State) (plen : Nat) {d : Descriptor} {w : Nat} (h : d.NamesBits w) :
    fieldOp w d [] (s.fbSlice Config.payloadBase plen) =
      entry plen d.off.toNat ((s.fbByte (Config.payloadBase + d.off.toNat)).extractLsb' d.shift.toNat w) := by
  rw [fieldOp_one_fbSlice, interpret_bits h]

/-- `plasma` is the OR of its two bits; payload byte 0 exists where byte 6 does (R113). -/
theorem fieldPlasma_fbSlice (s : State) (plen : Nat) :
    fieldPlasma (s.fbSlice Config.payloadBase plen) = entry plen 6 (bit (s.fbByte 10) 2 ||| bit (s.fbByte 4) 2) := by
  have hfirst : descPlasma.NamesBit 2 := by decide
  have hsecond : descPlasma2.NamesBit 2 := by decide
  rw [fieldPlasma, fieldOp_two, State.fbSlice_getElem?, State.fbSlice_getElem?, entry,
    ← interpret_bit hfirst, ← interpret_bit hsecond, ← BitVec.setWidth_or]
  by_cases hlong : 6 < plen
  · have hzero : 0 < plen := by omega
    rw [if_pos hlong, if_pos (show descPlasma.off.toNat < plen from hlong),
      if_pos (show descPlasma2.off.toNat < plen from hzero)]
    exact congrArg (fun v : BitVec 9 => (⟨true, v.setWidth 1⟩ : Field 1)) (interpret_bool_or _ _)
  · rw [if_neg hlong, if_neg (show ¬ descPlasma.off.toNat < plen from hlong)]
    rfl

/-! ### A decode that succeeds -/

/-- The entries after a successful decode are DECODE_PAYLOAD of the `payload_len` frame bytes from index 4 (R152). -/
theorem decoded_fields {s t : State} (h : Decoded s t) :
    t.res.fields =
      decodePayload (s.fbSlice Config.payloadBase t.res.payloadLen.toNat) (directionOf (s.fbByte 3)) := by
  obtain ⟨hturn, hstep, hok⟩ := h
  obtain rfl := eq_of_step_decoder hturn hstep
  simp only [State.decodeFrame_res_of_pass (State.decodeFrame_ok_iff.mp hok), State.okResult_payloadLen_toNat]
  rfl

/-! ### The entry a row writes (R101, R117) -/

/-- The field entries after operation `i`, which takes its own entry from `v` and leaves the other twenty of `f`. -/
def Fields.writeEntry (f v : Fields) (i : Instr) : Fields where
  powerBitRaw := if i = .fxPower then v.powerBitRaw else f.powerBitRaw
  mode := if i = .fxMode then v.mode else f.mode
  targetTempSelect := if i = .fxTsel then v.targetTempSelect else f.targetTempSelect
  tempTableSelect := if i = .fxTtab then v.tempTableSelect else f.tempTableSelect
  targetTemp := if i = .lkTtemp then v.targetTemp else f.targetTemp
  fanSpeed := if i = .fxFan then v.fanSpeed else f.fanSpeed
  fanSpeedAlt := if i = .fxFan2 then v.fanSpeedAlt else f.fanSpeedAlt
  fanQuiet := if i = .fxQuiet then v.fanQuiet else f.fanQuiet
  fanTurbo := if i = .fxTurbo then v.fanTurbo else f.fanTurbo
  verticalSwing := if i = .fxVswing then v.verticalSwing else f.verticalSwing
  horizontalSwing := if i = .fxHswing then v.horizontalSwing else f.horizontalSwing
  displayMode := if i = .fxDmode then v.displayMode else f.displayMode
  displayOn := if i = .fxDon then v.displayOn else f.displayOn
  displayFahrenheit := if i = .fxDunitf then v.displayFahrenheit else f.displayFahrenheit
  plasma := if i = .fxPlasma ∨ i = .fxPlasma2 then v.plasma else f.plasma
  sleep := if i = .fxSleep then v.sleep else f.sleep
  xfan := if i = .fxXfan then v.xfan else f.xfan
  saveEco := if i = .fxSave then v.saveEco else f.saveEco
  beeperRaw := if i = .fxBeep then v.beeperRaw else f.beeperRaw
  beeperNote := if i = .noteBeep then v.beeperNote else f.beeperNote
  indoorTemp := if i = .fxItemp then v.indoorTemp else f.indoorTemp

/-- Choosing `a` under one condition and then under another does not depend on their order. -/
theorem ite_same_comm {α : Type} (p q : Prop) [Decidable p] [Decidable q] (a b : α) :
    (if p then a else if q then a else b) = if q then a else if p then a else b := by
  rw [← ite_or, ← ite_or, if_congr or_comm rfl rfl]

/-- Two writes that take their entries from one record commute: an entry comes from that record as soon as one of the
two operations owns it. -/
theorem Fields.writeEntry_comm (f v : Fields) (i j : Instr) :
    (f.writeEntry v i).writeEntry v j = (f.writeEntry v j).writeEntry v i := by
  rw [Fields.mk.injEq]
  and_intros <;> exact ite_same_comm ..

/-- Every row but the lookup, and NOTE.BEEP, takes its entry from DECODE_PAYLOAD of the payload and direction that RES
describes. -/
theorem exec_row_writeEntry {s : State} {dir : Direction} (hdir : s.res.direction = directionBit dir) :
    ∀ i ∈ Instr.noteBeep :: Instr.descriptorRows,
      exec i s = .next (s.withFields (s.res.fields.writeEntry (decodePayload s.payload dir) i)) := by
  have hnote : exec .noteBeep s =
      .next (s.withFields (s.res.fields.writeEntry (decodePayload s.payload dir) .noteBeep)) := by
    show execNoteBeep s = _
    rw [execNoteBeep, hdir]
    rfl
  simp only [Instr.descriptorRows, List.cons_append, List.nil_append, List.forall_mem_cons]
  exact ⟨hnote, rfl, rfl, rfl, rfl, rfl, rfl, rfl, rfl, rfl, rfl, rfl, rfl, rfl, rfl, rfl, rfl, rfl, rfl, rfl, rfl,
    List.forall_mem_nil _⟩

/-- Every direction bit is a direction's. -/
theorem exists_directionBit_eq (b : BitVec 1) : ∃ dir, b = directionBit dir := by
  obtain rfl | rfl := BitVec.eq_zero_or_eq_one b
  · exact ⟨.report, rfl⟩
  · exact ⟨.set, rfl⟩

theorem runAll_cons_of_next {i : Instr} {s t : State} (h : exec i s = .next t) (is : List Instr) :
    runAll (i :: is) s = runAll is t := by
  simp only [runAll, h]

/-- Such operations in turn write their entries in turn: none of them changes the payload or the direction. -/
theorem runAll_writeEntry {is : List Instr} {s : State} {dir : Direction} (hdir : s.res.direction = directionBit dir)
    (his : ∀ i ∈ is, i ∈ Instr.noteBeep :: Instr.descriptorRows) :
    runAll is s = .next (s.withFields
      (is.foldl (·.writeEntry (decodePayload s.payload dir) ·) s.res.fields)) := by
  induction is generalizing s with
  | nil => rfl
  | cons i is ih =>
    obtain ⟨hi, hrest⟩ := List.forall_mem_cons.mp his
    exact (runAll_cons_of_next (exec_row_writeEntry hdir i hi) is).trans (ih (s := s.withFields _) hdir hrest)

end Sys2Proof.Machine
end

section
/-! The statements about field extraction (41_field_extraction.md). -/

namespace Sys2Proof.Machine

open Claims

/-- Settles O28: each operation takes its entry from one and the same record, DECODE_PAYLOAD of a payload and a
direction that none of them changes. -/
theorem fieldOperationsCommute : Obligations.FieldOperationsCommute := by
  intro i hi j hj s
  obtain ⟨dir, hdir⟩ := exists_directionBit_eq s.res.direction
  have hij := List.forall_mem_cons.mpr ⟨hi, List.forall_mem_singleton.mpr hj⟩
  have hji := List.forall_mem_cons.mpr ⟨hj, List.forall_mem_singleton.mpr hi⟩
  rw [runAll_writeEntry hdir hij, runAll_writeEntry hdir hji]
  simp only [List.foldl_cons, List.foldl_nil]
  rw [Fields.writeEntry_comm]

/-- Settles O30: each row but `plasma` names one bit of its byte. -/
theorem decodedBooleanFields : Obligations.DecodedBooleanFields := by
  intro s t h
  rw [decoded_fields h]
  have hbit {d : Descriptor} {k : Nat} (hd : d.NamesBit k) := fieldOp_bit_fbSlice s t.res.payloadLen.toNat hd
  exact ⟨hbit (d := descPower) (by decide), hbit (d := descSleep) (by decide), hbit (d := descTurbo) (by decide),
    hbit (d := descDon) (by decide), hbit (d := descXfan) (by decide), hbit (d := descDunitf) (by decide),
    hbit (d := descSave) (by decide), hbit (d := descQuiet) (by decide), fieldPlasma_fbSlice s _⟩

/-- Settles O31: each row names adjacent bits of its byte. -/
theorem decodedIntegerFields : Obligations.DecodedIntegerFields := by
  intro s t h
  rw [decoded_fields h]
  have hbits {d : Descriptor} {w : Nat} (hd : d.NamesBits w) := fieldOp_bits_fbSlice s t.res.payloadLen.toNat hd
  exact ⟨hbits (d := descFan) (by decide), hbits (d := descFan2) (by decide), hbits (d := descVswing) (by decide),
    hbits (d := descHswing) (by decide), hbits (d := descTsel) (by decide)⟩

/-- Settles O37: each threshold is one more than the last offset its row reads. -/
theorem entryIsValidExactlyWhenItsBytesExist : Obligations.EntryIsValidExactlyWhenItsBytesExist :=
  decodePayload_valid_iff

end Sys2Proof.Machine
end

section
/-! What the rows of the lookup and interpretation chapter make of a payload: the mode and the texts of the enumerated
codes, the looked-up temperature on either side of its payload length, the direction's note, the indoor temperature. -/

namespace Sys2Proof.Machine

open Claims

/-! ### The enumerations (R130 to R132) -/

/-- `mode` on `plen` frame bytes from index 4: its code with the `known` bit, or `NOVALUE`. -/
theorem fieldMode_fbSlice (s : State) (plen : Nat) :
    fieldMode (s.fbSlice Config.payloadBase plen) = modeEntry plen (s.fbByte 8) := by
  rw [fieldMode, fieldOp_bits_fbSlice s plen (d := descMode) (by decide)]
  by_cases hlong : 4 < plen
  · rw [modeEntry, if_pos hlong, entry, if_pos (show descMode.off.toNat < plen from hlong)]
    rfl
  · rw [modeEntry, if_neg hlong, entry, if_neg (show ¬ descMode.off.toNat < plen from hlong)]
    rfl

/-- The eight mode codes, those without a name included, have the texts R130 and R131 give. -/
theorem codeText_modeNames (code : BitVec 3) :
    codeText modeNames code.toNat = modeTexts[code.toNat]?.getD "" := by
  revert code
  decide

/-- All four display-mode codes have names (R132). -/
theorem codeText_displayNames (code : BitVec 2) :
    codeText displayNames code.toNat = displayTexts[code.toNat]?.getD "" := by
  revert code
  decide

/-! ### The looked-up temperature (R133 to R136) -/

/-- A flag whose byte exists is valid and is the bit its descriptor names. -/
theorem fieldOp_bit_of_byte {p : List Byte} {d : Descriptor} {k : Nat} {b : Byte} (h : d.NamesBit k)
    (hb : p[d.off.toNat]? = some b) : fieldOp 1 d [] p = ⟨true, bit b k⟩ := by
  rw [fieldOp_one, hb, ← interpret_bit h]

/-- A number whose byte exists is valid and is the bits its descriptor names. -/
theorem fieldOp_bits_of_byte {p : List Byte} {d : Descriptor} {w : Nat} {b : Byte} (h : d.NamesBits w)
    (hb : p[d.off.toNat]? = some b) : fieldOp w d [] p = ⟨true, b.extractLsb' d.shift.toNat w⟩ := by
  rw [fieldOp_one, hb, ← interpret_bits h]

/-- The table index is the high nibble of its byte as a number. -/
theorem extractLsb'_high_nibble_toNat (b : Byte) : (b.extractLsb' 4 4).toNat = b.toNat / 16 := by
  rw [BitVec.extractLsb'_toNat, Nat.shiftRight_eq_div_pow]
  omega

/-- Where payload bytes 5 and 7 exist, the lookup answers the entry of the table that byte 7 selects, at the index in
byte 5. -/
theorem lookupTemp_of_bytes {p : List Byte} {b5 b7 : Byte} (h5 : p[5]? = some b5) (h7 : p[7]? = some b7) :
    lookupTemp (fieldTsel p) (fieldTtab p) =
      ⟨true, if b7.getLsbD 6 = true then tempB (b5.toNat / 16) else tempA (b5.toNat / 16)⟩ := by
  have hsel : fieldTsel p = ⟨true, b5.extractLsb' 4 4⟩ := fieldOp_bits_of_byte (d := descTsel) (by decide) h5
  have htab : fieldTtab p = ⟨true, bit b7 6⟩ := fieldOp_bit_of_byte (d := descTtab) (by decide) h7
  rw [hsel, htab, ← extractLsb'_high_nibble_toNat]
  refine congrArg (TempField.mk true) ?_
  cases hbit : b7.getLsbD 6
  · exact if_pos (congrArg BitVec.ofBool hbit)
  · exact if_neg (by simp [bit, hbit])

/-- A lookup without a valid result is `NOVALUE`. -/
theorem lookupTemp_eq_none {sel : Field 4} {tab : Field 1} (h : (lookupTemp sel tab).valid ≠ true) :
    lookupTemp sel tab = TempField.none := by
  rw [lookupTemp_valid] at h
  exact if_neg h

/-! ### The beeper's note (R138) -/

theorem directionBit_directionOf (c : Byte) : directionBit (directionOf c) = if c = 0x01#8 then 1 else 0 := by
  rw [directionOf, apply_ite directionBit]
  rfl

/-! ### The indoor temperature (R139) -/

/-- Sixteen less than a byte fits the nine-bit two's complement, so that the subtraction does not wrap (D12). -/
theorem interpret_sub16_toInt (b : Byte) : (interpret .sub16 b).toInt = (b.toNat : Int) - 16 := by
  have hlt := b.isLt
  have hbyte : (b.setWidth 9).toInt = b.toNat := by
    rw [BitVec.toInt_setWidth]
    exact Int.bmod_eq_of_le (by omega) (by omega)
  have hoffset : (BitVec.ofNat 9 Config.indoorTempOffset).toInt = 16 := rfl
  rw [interpret, BitVec.toInt_sub, hbyte, hoffset]
  exact Int.bmod_eq_of_le (by omega) (by omega)

/-- `indoor_temp` on `plen` frame bytes from index 4: its whole byte interpreted, or `NOVALUE`. -/
theorem fieldItemp_fbSlice (s : State) (plen : Nat) :
    fieldItemp (s.fbSlice Config.payloadBase plen) = entry plen 42 (interpret .sub16 (s.fbByte 46)) := by
  have hwhole : (s.fbByte 46 &&& 0xFF#8) >>> 0 = s.fbByte 46 := by
    rw [BitVec.ushiftRight_zero]
    exact BitVec.and_allOnes
  refine (fieldOp_one_fbSlice s plen 9 descItemp).trans ?_
  rw [BitVec.setWidth_eq]
  exact congrArg (fun b => entry plen 42 (interpret .sub16 b)) hwhole

end Sys2Proof.Machine
end

section
/-! The statements about lookup and interpretation (42_lookup_interpretation.md). -/

namespace Sys2Proof.Machine

open Claims

/-- Settles O32: the entries are the rows' on the decoded payload, and each code's text is read off its table. -/
theorem decodedEnumerations : Obligations.DecodedEnumerations := by
  intro s t h
  have hmode : t.res.fields.mode = modeEntry t.res.payloadLen.toNat (s.fbByte 8) := by
    rw [decoded_fields h]
    exact fieldMode_fbSlice s _
  have hdisplay : t.res.fields.displayMode =
      entry t.res.payloadLen.toNat 9 ((s.fbByte 13).extractLsb' 4 2) := by
    rw [decoded_fields h]
    exact fieldOp_bits_fbSlice s _ (d := descDmode) (by decide)
  refine ⟨hmode, hdisplay, fun hlong => ?_, fun hlong => ?_⟩
  · rw [hmode, modeEntry, if_pos hlong]
    exact congrArg ReportValue.text (codeText_modeNames _)
  · rw [hdisplay, entry, if_pos hlong]
    exact congrArg ReportValue.text (codeText_displayNames _)

/-- Settles O33: payload bytes 5 and 7 are frame bytes 9 and 11, and the later one needs `plen >= 8`. -/
theorem decodedTargetTemperature : Obligations.DecodedTargetTemperature := by
  intro s t h
  rw [decoded_fields h]
  refine ⟨fieldOp_bit_fbSlice s _ (d := descTtab) (by decide), fun hlong => lookupTemp_of_bytes ?_ ?_,
    fun hshort => lookupTemp_eq_none fun hvalid => ?_⟩
  · rw [State.fbSlice_getElem?, if_pos (by omega)]
    rfl
  · rw [State.fbSlice_getElem?, if_pos (by omega)]
    rfl
  · have hreach := lookupTemp_valid_iff.mp hvalid
    rw [State.fbSlice_length] at hreach
    omega

/-- Settles O34: the lookup at the printed indices, each with the table bit that selects its table. -/
theorem printedTemperatureEntries : Obligations.PrintedTemperatureEntries := by
  intro p dir b5 b7 _ h5 h7
  refine ⟨fun hindex htable => (lookupTemp_of_bytes h5 h7).trans ?_,
    fun hindex htable => (lookupTemp_of_bytes h5 h7).trans ?_⟩
  · rw [htable, if_neg Bool.false_ne_true, tempA, if_pos hindex]
  · rw [if_pos htable, tempB, if_pos hindex]

/-- Settles O35: the raw bit is its row's, whatever the direction; the note is the direction bit alone. -/
theorem decodedBeeper : Obligations.DecodedBeeper := by
  intro s t h
  have hnote : t.res.fields.beeperNote = ⟨true, if s.fbByte 3 = 0x01#8 then 1 else 0⟩ := by
    rw [← directionBit_directionOf, decoded_fields h]
    rfl
  refine ⟨?_, hnote, ?_⟩
  · rw [decoded_fields h]
    exact fieldOp_bit_fbSlice s _ (d := descBeep) (by decide)
  · rw [hnote]
    by_cases hset : s.fbByte 3 = 0x01#8 <;> simp [noteValue, hset]

/-- Settles O36: the subtraction in nine bits is the one in the integers. -/
theorem decodedIndoorTemperature : Obligations.DecodedIndoorTemperature := by
  intro s t h
  have hitemp : t.res.fields.indoorTemp = entry t.res.payloadLen.toNat 42 (interpret .sub16 (s.fbByte 46)) := by
    rw [decoded_fields h]
    exact fieldItemp_fbSlice s _
  rw [hitemp]
  refine ⟨fun hlong => ?_, fun hshort => if_neg (by omega)⟩
  have hbyte := (s.fbByte 46).isLt
  rw [entry, if_pos (show 42 < t.res.payloadLen.toNat by omega)]
  simp only [interpret_sub16_toInt, true_and]
  omega

end Sys2Proof.Machine
end

section
/-! `RES` after a decode as R80 lists it, the invariant under each kind of step, the rows on a result that is already
DECODE_PAYLOAD of its payload, and a candidate loaded into two states. -/

namespace Sys2Proof.Machine

open Claims

/-! ### The result of a decode (R80, R152, R153) -/

/-- `DECODE_FRAME` leaves a bare hard error, or the whole result of a candidate that passes the checks of its own
direction. -/
theorem State.decodeFrame_res_cases (s : State) :
    (∃ e : HardError, s.decodeFrame.res = Res.ofStatus e.code) ∨
    (s.hardError (directionOf (s.fbByte 3)) = none ∧
      s.decodeFrame.res = s.okResult (directionOf (s.fbByte 3)) (s.fbByte 3)) := by
  unfold State.decodeFrame
  cases s.earlyError with
  | some e => exact .inl ⟨e, rfl⟩
  | none =>
    obtain ⟨e, -, hraise⟩ | ⟨hpass, hfinish⟩ := s.decodeAs_cases (directionOf (s.fbByte 3)) (s.fbByte 3)
    · exact .inl ⟨e, by simp only [hraise, State.raise_res]⟩
    · exact .inr ⟨hpass, by simp only [hfinish, State.finish_res]⟩

theorem plenOf_eq (s : State) : plenOf s = payloadLength (directionOf (s.fbByte 3)) (s.fbByte 2) := by
  unfold plenOf
  split_ifs with hset
  · rw [hset, directionOf_set, payloadLength_set]
  · rw [directionOf_of_ne_set hset, payloadLength_report]

/-- A candidate that passes the early steps decodes in its own direction. -/
theorem State.decodeFrame_of_early {s : State} (h : s.earlyError = none) :
    s.decodeFrame = s.decodeAs (directionOf (s.fbByte 3)) (s.fbByte 3) := by
  simp only [State.decodeFrame, h]

theorem State.decodeFrame_res_of_wrong_sync {s : State} (hn : Config.minFrameBytes ≤ s.n.toNat)
    (h : s.fbByte 0 ≠ Config.sync ∨ s.fbByte 1 ≠ Config.sync) : s.decodeFrame.res = Res.ofStatus 2 := by
  simp only [State.decodeFrame, State.earlyError_of_wrong_sync hn h]
  rfl

/-- `DECODE_FRAME` is the list of R80: the three errors in their order, or the result of R152. -/
theorem State.decodeFrame_res_eq_frameResult (s : State) : s.decodeFrame.res = frameResult s := by
  unfold frameResult
  split
  · next hshort => exact State.decodeFrame_res_of_short hshort
  · next hshort =>
    have hfloor := Nat.not_lt.mp hshort
    split
    · next hsync => exact State.decodeFrame_res_of_wrong_sync hfloor hsync
    · next hsync =>
      obtain ⟨hsync₀, hsync₁⟩ := not_or.mp hsync
      have hearly : s.earlyError = none :=
        State.earlyError_eq_none_iff.mpr ⟨hfloor, not_ne_iff.mp hsync₀, not_ne_iff.mp hsync₁⟩
      rw [State.decodeFrame_of_early hearly, plenOf_eq]
      split
      · next htruncated =>
        rw [State.decodeAs_of_hardError (State.hardError_of_truncated hearly (htruncated.imp_right (by omega)))]
        rfl
      · next hfits =>
        have hpass : s.hardError (directionOf (s.fbByte 3)) = none :=
          State.hardError_eq_none_iff.mpr ⟨hearly, by omega, by simp only [Config.payloadBase]; omega⟩
        rw [State.decodeAs_of_pass hpass]
        rfl

/-! ### The lookup among the rows (R135, R150) -/

/-- LK.TTEMP takes its entry from DECODE_PAYLOAD once FX.TSEL and FX.TTAB have left theirs. -/
theorem exec_lkTtemp_writeEntry {s : State} {dir : Direction}
    (hsel : s.res.fields.targetTempSelect = fieldTsel s.payload)
    (htab : s.res.fields.tempTableSelect = fieldTtab s.payload) :
    exec .lkTtemp s = .next (s.withFields (s.res.fields.writeEntry (decodePayload s.payload dir) .lkTtemp)) := by
  show execLkTtemp s = _
  rw [execLkTtemp, hsel, htab]
  rfl

/-- The lookup and the note in turn write their two entries. -/
theorem runAll_lkTtemp_noteBeep {s : State} {dir : Direction} (hdir : s.res.direction = directionBit dir)
    (hsel : s.res.fields.targetTempSelect = fieldTsel s.payload)
    (htab : s.res.fields.tempTableSelect = fieldTtab s.payload) :
    runAll [.lkTtemp, .noteBeep] s = .next (s.withFields
      ([Instr.lkTtemp, Instr.noteBeep].foldl (·.writeEntry (decodePayload s.payload dir) ·) s.res.fields)) :=
  (runAll_cons_of_next (exec_lkTtemp_writeEntry hsel htab) _).trans
    (runAll_writeEntry (s := s.withFields _) hdir (List.forall_mem_singleton.mpr List.mem_cons_self))

/-- The operations of R150 between them own all 21 entries. -/
theorem Fields.foldl_writeEntry_all (f v : Fields) :
    (Instr.descriptorRows ++ [Instr.lkTtemp, Instr.noteBeep]).foldl (·.writeEntry v ·) f = v := by
  simp [Instr.descriptorRows, Fields.writeEntry]

theorem runAll_append_of_next {is : List Instr} {s t : State} (h : runAll is s = .next t) (js : List Instr) :
    runAll (is ++ js) s = runAll js t := by
  induction is generalizing s with
  | nil => cases h; rfl
  | cons i is ih =>
    cases hexec : exec i s with
    | next u =>
      rw [runAll_cons_of_next hexec] at h
      exact (runAll_cons_of_next hexec _).trans (ih h)
    | fault r => simp [runAll, hexec] at h
    | refused r => simp [runAll, hexec] at h

/-! ### Rows on a result that is already complete -/

theorem mem_rows_of_format {i : Instr} (h : i.format ≠ .command) :
    i = .lkTtemp ∨ i ∈ Instr.noteBeep :: Instr.descriptorRows := by
  cases i with
  | frameSet | frameReport | frameOther c => exact absurd rfl h
  | lkTtemp => exact .inl rfl
  | _ => exact .inr (by decide)

/-- An entry written over itself stays. -/
@[simp] theorem Fields.writeEntry_self (f : Fields) (i : Instr) : f.writeEntry f i = f := by
  simp only [Fields.writeEntry, ite_self]

/-- Where the entries are DECODE_PAYLOAD of the payload and direction that RES describes, every row computes again the
entry that RES holds. -/
theorem exec_row_of_complete {i : Instr} {s : State} {dir : Direction} (hformat : i.format ≠ .command)
    (hdir : s.res.direction = directionBit dir) (hfields : s.res.fields = decodePayload s.payload dir) :
    exec i s = .next s := by
  have hwrite : exec i s = .next (s.withFields (s.res.fields.writeEntry (decodePayload s.payload dir) i)) := by
    obtain rfl | hmem := mem_rows_of_format hformat
    · exact exec_lkTtemp_writeEntry (by rw [hfields]; rfl) (by rw [hfields]; rfl)
    · exact exec_row_writeEntry hdir i hmem
  rw [hwrite, ← hfields, Fields.writeEntry_self]
  rfl

/-! ### The invariant -/

namespace State.Inv

variable {s t : State}

/-- The invariant speaks of the frame buffer, `N`, RES_VALID, RES and the reset count only. -/
theorem congr (h : s.Inv) (hfb : t.fb = s.fb) (hn : t.n = s.n) (hvalid : t.resValid = s.resValid)
    (hres : t.res = s.res) (hresets : t.resets = s.resets) : t.Inv := by
  have hsame : t.SameCandidate s := ⟨hn, fun a _ => State.fbByte_congr hfb hresets a⟩
  obtain ⟨hmemory, hlength, hloaded, hentries, hbare, hdescribes⟩ := h
  rw [← hfb] at hmemory
  rw [← hn] at hlength
  rw [← hn, ← hfb] at hloaded
  rw [← hres] at hentries hbare
  rw [← hvalid, ← hres, ← hsame.decodeFrame_res_eq] at hdescribes
  exact ⟨hmemory, hlength, hloaded, hentries, hbare, hdescribes⟩

/-- In a state that meets the invariant a valid OK result holds DECODE_PAYLOAD of the payload and direction it
describes. -/
theorem result_complete (h : s.Inv) (hvalid : s.resValid = true) (hok : s.res.status = statusOk) :
    s.res.direction = directionBit (directionOf (s.fbByte 3)) ∧
      s.res.fields = decodePayload s.payload (directionOf (s.fbByte 3)) := by
  have hdecode := h.resultDescribesCandidate hvalid
  have hpass := State.decodeFrame_ok_iff.mp (hdecode ▸ hok)
  have hres := hdecode.trans (State.decodeFrame_res_of_pass hpass)
  rw [State.payload, hres, State.okResult_payloadLen_toNat]
  exact ⟨rfl, rfl⟩

/-- A row request that goes on leaves a state that meets the invariant as it is. -/
theorem eq_of_rowStep (h : s.Inv) {w : List Byte} (hstep : rowStep w s = .next t) : t = s := by
  obtain ⟨r, hrefused⟩ | ⟨-, hidle⟩ | ⟨i, f, hrow, hvalid, hok, hexec, -⟩ := rowStep_cases w s
  · rw [hrefused] at hstep
    cases hstep
  · rw [hidle] at hstep
    cases hstep
    rfl
  · obtain ⟨hdir, hfields⟩ := h.result_complete hvalid hok
    rw [hexec, exec_row_of_complete (decodeRow_format hrow) hdir hfields] at hstep
    cases hstep
    rfl

/-- The decoder's step writes RES as the decode of the candidate that is loaded. -/
theorem after_decode (h : s.Inv) :
    ({ s with start := false, resValid := true, res := s.decodeFrame.res } : State).Inv where
  memoryCanonical := h.memoryCanonical
  lengthLegal := h.lengthLegal
  candidateLoaded := h.candidateLoaded
  entriesCanonical := by
    obtain ⟨e, hres⟩ | ⟨-, hres⟩ := s.decodeFrame_res_cases
    · simp only [hres]
      rfl
    · simp only [hres]
      exact decodePayload_canonical _ _
  errorIsBare hstatus := by
    obtain ⟨e, hres⟩ | ⟨-, hres⟩ := s.decodeFrame_res_cases
    · simp only [hres, Res.ofStatus_status]
    · simp only [hres] at hstatus
      exact absurd rfl hstatus
  resultDescribesCandidate _ := State.SameCandidate.decodeFrame_res_eq ⟨rfl, fun _ _ => rfl⟩

/-- LOAD stores every byte it counts in `N`, and clears RES_VALID. -/
theorem after_load (h : s.Inv) (b : List Byte) : (s.load b).Inv where
  memoryCanonical := State.load_wf b h.memoryCanonical
  lengthLegal := by rw [State.load_n_toNat]; exact Nat.min_le_left _ _
  candidateLoaded a ha := by
    have htaken : a < (b.take Config.nMax).length := by rwa [State.load_n_toNat, ← List.length_take] at ha
    rw [State.load_fb, Memory.read_writeBytes, if_pos ⟨a.zero_le, by omega⟩]
    simpa using htaken
  entriesCanonical := h.entriesCanonical
  errorIsBare := h.errorIsBare
  resultDescribesCandidate hvalid := absurd hvalid Bool.false_ne_true

/-- After a reset nothing is loaded, `N` is 0 and RES is all 0. -/
theorem after_doReset (s : State) : s.doReset.Inv where
  memoryCanonical := Memory.wf_nil
  lengthLegal := Nat.zero_le _
  candidateLoaded _ ha := absurd ha (Nat.not_lt_zero _)
  entriesCanonical := rfl
  errorIsBare _ := rfl
  resultDescribesCandidate hvalid := absurd hvalid Bool.false_ne_true

/-- Every host request that is performed keeps the invariant. -/
theorem of_performRequest (h : s.Inv) {op : HostOp} (hstep : performRequest op s = .next t) : t.Inv := by
  cases op with
  | load b => cases hstep; exact h.after_load b
  | start => cases hstep; exact h.congr rfl rfl rfl rfl rfl
  | read =>
    simp only [performRequest] at hstep
    split at hstep <;> cases hstep
    exact h.congr rfl rfl rfl rfl rfl
  | readFrame a =>
    simp only [performRequest] at hstep
    split at hstep <;> cases hstep
    exact h.congr rfl rfl rfl rfl rfl
  | reset => cases hstep; exact after_doReset s
  | row w => exact h.eq_of_rowStep hstep ▸ h

/-- The host's step keeps the invariant, idle or not. -/
theorem of_hostStep (h : s.Inv) (hstep : hostStep s = .next t) : t.Inv := by
  unfold hostStep at hstep
  split at hstep
  · cases hstep
    exact h
  · next rest _ => exact (h.congr (t := { s with requests := rest }) rfl rfl rfl rfl rfl).of_performRequest hstep

end State.Inv

/-! ### A candidate loaded and decoded (R155, R165) -/

/-- LOAD leaves the candidate's own bytes below `N`, whatever the frame buffer held. -/
theorem State.some_load_fbByte (s : State) (b : List Byte) {i : Nat} (hi : i < min Config.nMax b.length) :
    some ((s.load b).fbByte i) = b[i]? := by
  have hlen : i < b.length := by omega
  rw [State.load_fbByte, if_pos (by rwa [List.length_take])]
  simp [hlen]

/-- One byte string loaded into two states leaves the same candidate in both. -/
theorem State.load_sameCandidate (s t : State) (b : List Byte) : (s.load b).SameCandidate (t.load b) := by
  refine ⟨rfl, fun a ha => Option.some.inj ?_⟩
  rw [State.load_n_toNat] at ha
  rw [State.some_load_fbByte s b ha, State.some_load_fbByte t b ha]

/-- The decode of a loaded candidate is the candidate's own result (R71, R155). -/
theorem State.load_decodeFrame_res (s : State) (b : List Byte) : (s.load b).decodeFrame.res = decodeCandidate b :=
  (s.load_sameCandidate State.reset b).decodeFrame_res_eq

theorem core_run_succ_of_step {s t : State} (h : step s = .next t) (k : Nat) :
    Sys2Proof.core.run (k + 1) s = Sys2Proof.core.run k t := by
  have hstep : Sys2Proof.core.step s = .next t := h
  simp only [Host.Core.run, hstep]

/-- START, the decoder's step and READ: the host reads DECODE_FRAME of the candidate that is loaded (R30, R31). -/
theorem core_run_start_read {s : State} {rest : List HostOp} (hstart : s.start = false)
    (hreq : s.requests = .start :: .read :: rest) :
    Sys2Proof.core.run 3 s = .next { s with
      start := false, requests := rest, resValid := true, res := s.decodeFrame.res
      out := some (.result s.decodeFrame.res) } := by
  have henable : step s = .next { s with start := true, requests := .read :: rest } := step_request hstart hreq
  have hsame : ({ s with start := true, requests := .read :: rest } : State).decodeFrame.res = s.decodeFrame.res :=
    State.SameCandidate.decodeFrame_res_eq ⟨rfl, fun _ _ => rfl⟩
  have hdecode : step { s with start := true, requests := .read :: rest } =
      .next { s with start := false, requests := .read :: rest, resValid := true, res := s.decodeFrame.res } := by
    rw [step_decoder_writes rfl, hsame]
  have hread : step { s with start := false, requests := .read :: rest, resValid := true, res := s.decodeFrame.res } =
      .next { s with
        start := false, requests := rest, resValid := true, res := s.decodeFrame.res
        out := some (.result s.decodeFrame.res) } := (step_request rfl rfl).trans (performRequest_read_valid rfl)
  rw [core_run_succ_of_step henable, core_run_succ_of_step hdecode, core_run_succ_of_step hread]
  rfl

end Sys2Proof.Machine
end

section
/-! The statements about the assembly of the result (43_result_assembly.md). -/

namespace Sys2Proof.Machine

open Claims

/-- Settles O48: the decoder's step writes the decode of the loaded candidate, LOAD and reset clear RES_VALID, and no
other request changes what the invariant speaks of. -/
theorem everyStepKeepsTheInvariant : Obligations.EveryStepKeepsTheInvariant := by
  intro s t hinv hstep
  cases hturn : s.decoderTurn with
  | true =>
    obtain rfl := eq_of_step_decoder hturn hstep
    exact hinv.after_decode
  | false =>
    rw [step_host hturn] at hstep
    exact hinv.of_hostStep hstep

/-- Settles O7: the step writes RES as `DECODE_FRAME` does, which is the list of R80. -/
theorem decoderStepIsDecodeFrame : Obligations.DecoderStepIsDecodeFrame := by
  intro s hturn
  rw [step_decoder_writes hturn, State.decodeFrame_res_eq_frameResult]

/-- Settles O29: each operation in turn takes its entry from DECODE_PAYLOAD, the lookup after the two rows it reads, and
together they own every entry. -/
theorem rowsInTurnGiveDecodePayload : Obligations.RowsInTurnGiveDecodePayload := by
  intro s dir hdir
  have hrows := runAll_writeEntry hdir (is := Instr.descriptorRows) fun i hi => List.mem_cons_of_mem _ hi
  rw [runAll_append_of_next hrows]
  refine Eq.trans (runAll_lkTtemp_noteBeep hdir rfl rfl) ?_
  simp only [State.withFields_twice, State.withFields_payload, State.withFields_res, ← List.foldl_append,
    Fields.foldl_writeEntry_all]

/-- Settles O46: the queue gives LOAD, START, the decoder's step and READ their turns, and the decode of a loaded
candidate does not depend on the state it was loaded into. -/
theorem hostGetsTheResultOfItsCandidate : Obligations.HostGetsTheResultOfItsCandidate := by
  intro s cand rest hstart hreq
  have hload : step s = .next (State.load { s with requests := .start :: .read :: rest } cand) :=
    step_request hstart hreq
  have hdecoded := core_run_start_read (s := State.load { s with requests := .start :: .read :: rest } cand) hstart rfl
  rw [State.load_decodeFrame_res] at hdecoded
  exact ⟨_, (core_run_succ_of_step hload 3).trans hdecoded, rfl, rfl, rfl, State.load_n_toNat s cand,
    fun i hi => State.some_load_fbByte s cand hi⟩

end Sys2Proof.Machine
end

section
/-! When the block performs a request, hex text under the scan of `PARSE_HEX`, and what the extractor emits and the
decoder makes of it. -/

namespace Sys2Proof.Machine

open Claims

/-! ### Requests the block performs (R30, R40, R200) -/

/-- A row request goes on exactly when its bytes are a row's and RES_VALID is 1, whatever the status in RES. -/
theorem rowStep_next_iff {w : List Byte} {s : State} :
    (∃ t, rowStep w s = .next t) ↔ s.performs (.row w) := by
  cases hrow : decodeRow w with
  | error e => simp [rowStep, State.performs, hrow]
  | ok i =>
    cases hvalid : s.resValid with
    | false => simp [rowStep, State.performs, hrow, hvalid]
    | true =>
      refine iff_of_true ?_ ⟨hvalid, i, hrow⟩
      by_cases hok : s.res.status = statusOk
      · obtain ⟨f, hexec⟩ := exec_row_next (decodeRow_format hrow) s
        exact ⟨_, (rowStep_of_ok hrow hvalid hok).trans hexec⟩
      · exact ⟨s, by simp [rowStep, hrow, hvalid, hok]⟩

/-- A host request goes on exactly when the block performs it. -/
theorem performRequest_next_iff {op : HostOp} {s : State} :
    (∃ t, performRequest op s = .next t) ↔ s.performs op := by
  cases op with
  | load b => exact iff_of_true ⟨_, rfl⟩ trivial
  | start => exact iff_of_true ⟨_, rfl⟩ trivial
  | read =>
    cases hvalid : s.resValid with
    | true => exact iff_of_true ⟨_, performRequest_read_valid hvalid⟩ hvalid
    | false => simp [performRequest_read_invalid hvalid, State.performs, hvalid]
  | readFrame a =>
    rcases Nat.lt_or_ge a s.n.toNat with hbelow | habove
    · exact iff_of_true ⟨_, performRequest_readFrame_below hbelow⟩ hbelow
    · simp [performRequest_readFrame_above habove, State.performs, Nat.not_lt.mpr habove]
  | reset => exact iff_of_true ⟨_, rfl⟩ trivial
  | row w => exact rowStep_next_iff

/-- Where the decoder's step is enabled, either it runs or a pending reset abandons it; both go on (R31, R200). -/
theorem step_next_of_start {s : State} (h : s.start = true) : ∃ t, step s = .next t := by
  by_cases hreset : ∃ rest, s.requests = .reset :: rest
  · obtain ⟨rest, hreq⟩ := hreset
    exact ⟨_, step_reset hreq⟩
  · have hturn := State.decoderTurn_iff.mpr ⟨h, State.resetPending_eq_false (not_exists.mp hreset)⟩
    exact ⟨_, step_decoder hturn⟩

/-- With no step enabled and no request pending a step changes nothing (log entry 4). -/
theorem step_idle {s : State} (hstart : s.start = false) (hreq : s.requests = []) : step s = .next s := by
  rw [step_host (State.decoderTurn_of_not_start hstart), hostStep, hreq]

/-! ### Hex text (R160) -/

/-- The character of a hex digit has that digit's value. -/
theorem hexVal_hexChar : ∀ d < 16, hexVal (hexChar d) = some d := by decide

/-- Two adjacent hex digits, with none pending before them, are one byte. -/
theorem scanHex_pair {c d : Char} {hi lo : Nat} (hc : hexVal c = some hi) (hd : hexVal d = some lo)
    (text : List Char) : scanHex none (c :: d :: text) = BitVec.ofNat 8 (16 * hi + lo) :: scanHex none text := by
  simp [scanHex, hc, hd]

/-- Text without a hex digit is skipped. -/
theorem scanHex_separator {sep : List Char} (h : ∀ c ∈ sep, hexVal c = none) (text : List Char) :
    scanHex none (sep ++ text) = scanHex none text := by
  induction sep with
  | nil => rfl
  | cons c sep ih =>
    obtain ⟨hc, hsep⟩ := List.forall_mem_cons.mp h
    simp [scanHex, hc, ih hsep]

/-- A byte's two hex digits and a separator are read as that byte. -/
theorem scanHex_hexPair (b : Byte) {sep : List Char} (h : ∀ c ∈ sep, hexVal c = none) (text : List Char) :
    scanHex none (hexPair b sep ++ text) = b :: scanHex none text := by
  have hhi := hexVal_hexChar (b.toNat / 16) (by omega)
  have hlo := hexVal_hexChar (b.toNat % 16) (by omega)
  rw [hexPair, List.cons_append, List.cons_append, scanHex_pair hhi hlo, scanHex_separator h, Nat.div_add_mod]
  simp

/-! ### The extractor (R161, R162) -/

/-- The candidate at the front of a byte string, by its bytes: a sync pair, then a length byte whose bytes fit. -/
theorem candidateAt_eq (b : List Byte) :
    candidateAt b =
      if b[0]? = some 0x7E#8 ∧ b[1]? = some 0x7E#8 ∧ 2 < b.length ∧ 3 + (b[2]?.getD 0).toNat ≤ b.length then
        some (b.take (3 + (b[2]?.getD 0).toNat))
      else none := by
  match b with
  | [] | [_] | [_, _] => simp [candidateAt]
  | s₀ :: s₁ :: len :: rest => exact if_congr (by simp [Config.sync, Config.extractBias]) rfl rfl

/-- The candidate at a position, by the bytes from there on. -/
theorem candidateAt_drop (b : List Byte) (i : Nat) :
    candidateAt (b.drop i) =
      if b[i]? = some 0x7E#8 ∧ b[i + 1]? = some 0x7E#8 ∧ i + 2 < b.length ∧
          i + 3 + (b[i + 2]?.getD 0).toNat ≤ b.length then
        some ((b.drop i).take (3 + (b[i + 2]?.getD 0).toNat))
      else none := by
  have hlong : 2 < b.length - i ↔ i + 2 < b.length := by omega
  have hfits (k : Nat) (h : i + 2 < b.length) : 3 + k ≤ b.length - i ↔ i + 3 + k ≤ b.length := by omega
  rw [candidateAt_eq]
  simp only [List.getElem?_drop, List.length_drop, Nat.add_zero, hlong]
  exact if_congr (and_congr_right' (and_congr_right' (and_congr_right (hfits _)))) rfl rfl

/-- The extractor's output is the candidates at the positions in turn. -/
theorem extractFrames_eq_filterMap (b : List Byte) :
    extractFrames b = (List.range b.length).filterMap fun i => candidateAt (b.drop i) := by
  induction b with
  | nil => rfl
  | cons x rest ih =>
    rw [extractFrames, ih, List.length_cons, List.range_succ_eq_map, List.filterMap_cons, List.filterMap_map]
    cases h : candidateAt (x :: rest) <;> simp [h]

/-- An emitted candidate starts with both sync bytes and is as long as its own length byte says. -/
theorem shape_of_mem_extractFrames {b cand : List Byte} {len : Byte} (h : cand ∈ extractFrames b)
    (hlen : cand[2]? = some len) :
    cand[0]? = some Config.sync ∧ cand[1]? = some Config.sync ∧ cand.length = 3 + len.toNat := by
  rw [extractFrames_eq_filterMap] at h
  obtain ⟨i, -, hcand⟩ := List.mem_filterMap.mp h
  rw [candidateAt_eq] at hcand
  split at hcand
  · next hsync =>
    obtain ⟨hsync₀, hsync₁, -, hfits⟩ := hsync
    obtain rfl := Option.some.inj hcand
    rw [List.getElem?_take_of_lt (by omega)] at hlen
    rw [List.getElem?_take_of_lt (by omega), List.getElem?_take_of_lt (by omega), List.length_take_of_le hfits, hlen]
    exact ⟨hsync₀, hsync₁, rfl⟩
  · cases hcand

/-! ### A candidate in the decoder (R71, R89) -/

/-- A candidate of fewer than five bytes is FrameTooShort. -/
theorem decodeCandidate_status_of_short {cand : List Byte} (h : cand.length < 5) :
    (decodeCandidate cand).status = 1 := by
  have hn : (State.reset.load cand).n.toNat < Config.minFrameBytes := by
    rw [State.load_n_toNat, Config.minFrameBytes]; omega
  rw [decodeCandidate, State.decodeFrame_res_of_short hn]
  rfl

/-- A candidate with both sync bytes and a command that is not SET succeeds when its length byte is at least 2 and its
`3 + length` bytes are all there. -/
theorem decodeCandidate_status_of_fits {cand : List Byte} {len : Byte} (hsync₀ : cand[0]? = some Config.sync)
    (hsync₁ : cand[1]? = some Config.sync) (hlen : cand[2]? = some len) (hcmd : cand[3]? ≠ some 0x01#8)
    (hmin : 2 ≤ len.toNat) (hfits : 3 + len.toNat ≤ cand.length) : (decodeCandidate cand).status = 0 := by
  have hn : (State.reset.load cand).n.toNat = min 258 cand.length := State.load_n_toNat _ _
  have hbyte (i : Nat) (hi : i < 5) : cand[i]? = some ((State.reset.load cand).fbByte i) :=
    (State.some_load_fbByte _ _ (lt_min (hi.trans (by decide)) (by omega))).symm
  rw [hbyte 0 (by decide)] at hsync₀
  rw [hbyte 1 (by decide)] at hsync₁
  rw [hbyte 2 (by decide)] at hlen
  rw [hbyte 3 (by decide)] at hcmd
  have hdir := directionOf_of_ne_set fun h => hcmd (congrArg some h)
  have hearly := State.earlyError_eq_none_iff.mpr
    ⟨show 5 ≤ _ by omega, Option.some.inj hsync₀, Option.some.inj hsync₁⟩
  refine State.decodeFrame_ok_iff.mpr (State.hardError_eq_none_iff.mpr ⟨hearly, ?_⟩)
  rw [hdir, Option.some.inj hlen, payloadLength_report, Config.payloadBase]
  omega

end Sys2Proof.Machine
end

section
/-! The statements about the host's requests and the environment (44_env_extractor.md). -/

namespace Sys2Proof.Machine

/-- Settles O45: an enabled decode goes on or is abandoned, an idle step changes nothing, and any other step performs the
oldest request. -/
theorem stepGoesOnExactlyWhenPerformed : Obligations.StepGoesOnExactlyWhenPerformed := by
  intro s
  cases hstart : s.start with
  | true => exact iff_of_true (step_next_of_start hstart) (.inl rfl)
  | false =>
    cases hreq : s.requests with
    | nil => exact iff_of_true ⟨s, step_idle hstart hreq⟩ (.inr (.inl rfl))
    | cons op rest =>
      have hsame : ({ s with requests := rest } : State).performs op ↔ s.performs op := Iff.rfl
      rw [step_request hstart hreq, performRequest_next_iff, hsame]
      simp

/-- Settles O50, by induction on the bytes: each pair of digits is read with none pending before it. -/
theorem hexTextIsReadBack : Obligations.HexTextIsReadBack := by
  intro l hsep
  induction l with
  | nil => rfl
  | cons e l ih =>
    obtain ⟨he, hl⟩ := List.forall_mem_cons.mp hsep
    rw [List.flatMap_cons, parseHex, scanHex_hexPair e.1 he, List.map_cons]
    exact congrArg _ (ih hl)

/-- Settles O51: the scan looks for a candidate at every position, and what it finds there is read off the bytes. -/
theorem extractorEmitsEveryCandidateInOrder : Obligations.ExtractorEmitsEveryCandidateInOrder := by
  intro b
  simp only [extractFrames_eq_filterMap, candidateAt_drop]

/-- Settles O52: every candidate starts with two adjacent sync bytes. -/
theorem noSyncMarkerNoCandidate : Obligations.NoSyncMarkerNoCandidate := by
  intro b hnone
  rw [extractorEmitsEveryCandidateInOrder b, List.filterMap_eq_nil_iff]
  intro i _
  exact if_neg fun ⟨hsync₀, hsync₁, _⟩ => hnone i ⟨hsync₀, hsync₁⟩

/-- Settles O53: an extracted candidate is `3 + length` bytes, which is what a command that is not SET needs (R89), and is
below five exactly for the length bytes 0 and 1. -/
theorem extractedCandidatesDecode : Obligations.ExtractedCandidatesDecode := by
  intro b cand hmem len hlen
  obtain ⟨hsync₀, hsync₁, htotal⟩ := shape_of_mem_extractFrames hmem hlen
  refine ⟨fun hmin hcmd => ?_, fun hshort => ?_⟩
  · exact decodeCandidate_status_of_fits hsync₀ hsync₁ hlen hcmd hmin htotal.ge
  · exact decodeCandidate_status_of_short (by omega)

end Sys2Proof.Machine
end

section
/-! The statements about hard errors (60_exceptions.md). -/

namespace Sys2Proof.Machine

open Claims

/-- The status a decode leaves, by the conditions of R186 in their order. -/
theorem frameResult_status (s : State) :
    (frameResult s).status =
      if s.n.toNat < 5 then 1
      else if s.fbByte 0 ≠ 0x7E#8 ∨ s.fbByte 1 ≠ 0x7E#8 then 2
      else if plenOf s < 0 ∨ (s.n.toNat : Int) < 5 + plenOf s then 3
      else 0 := by
  simp only [frameResult, apply_ite Res.status]
  rfl

/-- Settles O12: the statuses are four different codes, and the first condition that holds picks its own. -/
theorem firstErrorConditionIsReported : Obligations.FirstErrorConditionIsReported := by
  intro s t hturn hstep tooShort noSync truncated
  obtain rfl := eq_of_step_decoder hturn hstep
  have hstatus : s.decodeFrame.res.status =
      if tooShort then 1 else if noSync then 2 else if truncated then 3 else 0 := by
    rw [State.decodeFrame_res_eq_frameResult, frameResult_status]
  rw [hstatus]
  by_cases hshort : tooShort
  · simp [hshort]
  · by_cases hsync : noSync
    · simp [hshort, hsync]
    · by_cases htruncated : truncated <;> simp [hshort, hsync, htruncated]

/-- Settles O13: a decode that leaves another status than OK leaves a bare error code, and the step writes only RES,
RES_VALID and the enable. -/
theorem hardErrorLeavesOnlyItsCode : Obligations.HardErrorLeavesOnlyItsCode := by
  intro s t hturn hstep herror
  obtain rfl := eq_of_step_decoder hturn hstep
  obtain ⟨e, hres⟩ | ⟨-, hres⟩ := s.decodeFrame_res_cases
  · rw [hres]
    exact ⟨rfl, rfl, rfl, rfl, rfl, rfl, rfl⟩
  · exact absurd (congrArg Res.status hres) herror

end Sys2Proof.Machine
end

section
/-! What a request other than LOAD and reset can write (R200). -/

namespace Sys2Proof.Machine

/-- When it is not the decoder's turn and no reset is pending, no decode is enabled: only a reset takes an enabled
decode's turn. -/
theorem State.not_start_of_not_decoderTurn {s : State} (hturn : s.decoderTurn = false)
    (hreset : ∀ later, s.requests ≠ .reset :: later) : s.start = false :=
  Bool.eq_false_of_not_eq_true fun hstart =>
    Bool.eq_false_iff.mp hturn (State.decoderTurn_iff.mpr ⟨hstart, State.resetPending_eq_false hreset⟩)

/-- A performed request other than LOAD and reset writes the enable and the host's last read at most. -/
theorem State.Inv.performRequest_frame {s t : State} (h : s.Inv) {op : HostOp} (hload : ∀ b, op ≠ .load b)
    (hreset : op ≠ .reset) (hstep : performRequest op s = .next t) :
    ∃ start out, t = { s with start := start, out := out } := by
  cases op with
  | load b => exact absurd rfl (hload b)
  | start =>
    rw [performRequest_start] at hstep
    cases hstep
    exact ⟨true, s.out, rfl⟩
  | read =>
    have hvalid : s.resValid = true := performRequest_next_iff.mp ⟨t, hstep⟩
    rw [performRequest_read_valid hvalid] at hstep
    cases hstep
    exact ⟨s.start, some (.result s.res), rfl⟩
  | readFrame a =>
    have hbelow : a < s.n.toNat := performRequest_next_iff.mp ⟨t, hstep⟩
    rw [performRequest_readFrame_below hbelow] at hstep
    cases hstep
    exact ⟨s.start, some (.byte (s.fbByte a)), rfl⟩
  | reset => exact absurd rfl hreset
  | row w => exact ⟨s.start, s.out, h.eq_of_rowStep hstep⟩

end Sys2Proof.Machine
end

section
/-! The statements about reset and hazards (70_reset_and_hazards.md). -/

namespace Sys2Proof.Machine

/-- Settles O43: an idle step changes nothing, and any other request than LOAD and reset writes at most the enable and the
host's last read; a row computes again the entry that RES holds, by the invariant. -/
theorem onlyLoadResetAndTheDecoderWriteState : Obligations.OnlyLoadResetAndTheDecoderWriteState := by
  intro s t hinv hstep hturn hload hreset
  have hstart := State.not_start_of_not_decoderTurn hturn hreset
  cases hreq : s.requests with
  | nil =>
    rw [step_idle hstart hreq] at hstep
    cases hstep
    exact ⟨rfl, rfl, rfl, rfl, rfl⟩
  | cons op rest =>
    rw [step_request hstart hreq] at hstep
    have hinv' : ({ s with requests := rest } : State).Inv := hinv.congr rfl rfl rfl rfl rfl
    obtain ⟨start, out, rfl⟩ := hinv'.performRequest_frame (fun b hop => hload b rest (hop ▸ hreq))
      (fun hop => hreset rest (hop ▸ hreq)) hstep
    exact ⟨rfl, rfl, rfl, rfl, rfl⟩

/-- Settles O42: the reset takes its turn before an enabled decode, and writes every register. -/
theorem resetAbandonsAnEnabledDecode : Obligations.ResetAbandonsAnEnabledDecode :=
  fun _ _ hreq => step_reset hreq

end Sys2Proof.Machine
end

section
/-! The round trip between instructions and bytes: a ROM word is its three bytes side by side, a row with a descriptor is
spelled by its packed word, and each command byte spells the case it selects. -/

namespace Sys2Proof

/-! ### Words and their bytes (log entries 5 and 6) -/

/-- Three bytes read lowest first stand side by side in the ROM word. -/
theorem romWord_eq_append (b0 b1 b2 : Byte) :
    b0.setWidth 24 ||| b1.setWidth 24 <<< 8 ||| b2.setWidth 24 <<< 16 = (b2 ++ b1 ++ b0 : RomWord) := by
  rw [BitVec.or_comm (b0.setWidth 24), BitVec.or_comm, ← BitVec.or_assoc, ← BitVec.setWidth_eq (b2 ++ b1 ++ b0),
    BitVec.setWidth_append_append_eq_shiftLeft_setWidth_or]

/-- Two bytes read lowest first stand side by side in the selector. -/
theorem selector_eq_append (b0 b1 : Byte) :
    b0.setWidth 16 ||| b1.setWidth 16 <<< 8 = (b1 ++ b0 : BitVec 16) := by
  rw [BitVec.or_comm, ← BitVec.setWidth_eq (b1 ++ b0), BitVec.setWidth_append_eq_shiftLeft_setWidth_or]

/-- The bytes of a ROM word are the three it was put together from. -/
theorem romWordBytes_append (b0 b1 b2 : Byte) : romWordBytes (b2 ++ b1 ++ b0) = [b0, b1, b2] := by
  simp (disch := decide) only [romWordBytes, BitVec.extractLsb'_append_eq_of_le, Nat.reduceSub,
    BitVec.extractLsb'_append_eq_right, BitVec.extractLsb'_eq_self]

/-- A ROM word is its own three bytes side by side. -/
theorem append_extractLsb'_bytes (w : RomWord) :
    (w.extractLsb' 16 8 ++ w.extractLsb' 8 8 ++ w.extractLsb' 0 8 : RomWord) = w := by
  rw [BitVec.extractLsb'_append_extractLsb'_eq_extractLsb' (start₁ := 8) (len₁ := 8) rfl]
  exact (BitVec.extractLsb'_append_extractLsb'_eq_extractLsb' (start₁ := 0) rfl).trans BitVec.extractLsb'_eq_self

/-! ### The decoder on each length -/

theorem decode_command (c : Byte) : decode [c] = .ok (decodeCommand c) := rfl

theorem decodeRow_three (b0 b1 b2 : Byte) : decodeRow [b0, b1, b2] = decodeDescriptor (b2 ++ b1 ++ b0) := by
  rw [decodeRow, romWord_eq_append]

theorem decodeRow_two (b0 b1 : Byte) : decodeRow [b0, b1] = decodeSelector (b1 ++ b0) := by
  rw [decodeRow, selector_eq_append]

/-- The bytes of a ROM word decode as the word does. -/
theorem decode_romWordBytes (w : RomWord) : decode (romWordBytes w) = decodeDescriptor w := by
  show decodeRow [_, _, _] = _
  rw [decodeRow_three, append_extractLsb'_bytes]

/-! ### What an instruction is spelled as -/

theorem encode_of_descriptorOf {i : Instr} {d : Descriptor} (h : descriptorOf i = some d) :
    encode i = romWordBytes d.pack := by
  cases i <;> cases h <;> rfl

theorem wf_of_descriptorOf {i : Instr} {d : Descriptor} (h : descriptorOf i = some d) : i.wf = true := by
  cases i <;> cases h <;> rfl

/-- FRAME.OTHER carries neither of the two command bytes that have a row of their own (R92). -/
theorem wf_frameOther_iff {c : Byte} : (Instr.frameOther c).wf = true ↔ c ≠ 0x01#8 ∧ c ≠ 0x31#8 := by
  simp [Instr.wf, Config.cmdSet, Config.cmdReport]

/-- The case a command byte selects is spelled by that byte, and is well formed. -/
theorem encode_decodeCommand (c : Byte) : encode (decodeCommand c) = [c] ∧ (decodeCommand c).wf = true := by
  by_cases hset : c = 0x01#8
  · subst hset; exact ⟨rfl, rfl⟩
  · by_cases hreport : c = 0x31#8
    · subst hreport; exact ⟨rfl, rfl⟩
    · rw [decodeCommand_other hset hreport]
      exact ⟨rfl, wf_frameOther_iff.mpr ⟨hset, hreport⟩⟩

/-- A selector that is accepted is spelled by its two bytes, and is well formed (log entry 6). -/
theorem encode_of_decodeSelector {b0 b1 : Byte} {i : Instr} (h : decodeSelector (b1 ++ b0) = .ok i) :
    encode i = [b0, b1] ∧ i.wf = true := by
  have hbytes {c0 c1 : Byte} (hword : b1 ++ b0 = c1 ++ c0) : [c0, c1] = [b0, b1] := by
    have hlow := congrArg (BitVec.extractLsb' 0 8) hword
    have hhigh := congrArg (BitVec.extractLsb' 8 8) hword
    simp only [BitVec.extractLsb'_append_eq_right, BitVec.extractLsb'_append_eq_left] at hlow hhigh
    rw [hlow, hhigh]
  unfold decodeSelector at h
  split_ifs at h with hzero hone
  · cases h; exact ⟨hbytes (c0 := 0x00#8) (c1 := 0x00#8) hzero, rfl⟩
  · cases h; exact ⟨hbytes (c0 := 0x01#8) (c1 := 0x00#8) hone, rfl⟩

/-- A row's bytes that are accepted are the encoding of the row, which is well formed. -/
theorem encode_of_decodeRow {bs : List Byte} {i : Instr} (h : decodeRow bs = .ok i) :
    encode i = bs ∧ i.wf = true := by
  match bs with
  | [] | [_] | _ :: _ :: _ :: _ :: _ => cases h
  | [b0, b1] =>
    rw [decodeRow_two] at h
    exact encode_of_decodeSelector h
  | [b0, b1, b2] =>
    rw [decodeRow_three] at h
    obtain ⟨d, hd, hpack⟩ := decodeDescriptor_ok_iff.mp h
    exact ⟨by rw [encode_of_descriptorOf hd, hpack, romWordBytes_append], wf_of_descriptorOf hd⟩

end Sys2Proof
end

section
/-! The statements about the round trip of the encodings (30_encoding.md). -/

namespace Sys2Proof

/-- Settles O2: a row with a descriptor is read back from the descriptor ROM, and the others from the byte or selector
that picks them. -/
theorem decodeOfEncodeIsTheInstruction : Obligations.DecodeOfEncodeIsTheInstruction := by
  intro i hwf
  cases hd : descriptorOf i with
  | some d => rw [encode_of_descriptorOf hd, decode_romWordBytes, decodeDescriptor_row hd]
  | none =>
    cases i with
    | frameSet => rfl
    | frameReport => rfl
    | frameOther c =>
      obtain ⟨hset, hreport⟩ := wf_frameOther_iff.mp hwf
      rw [encode, decode_command, decodeCommand_other hset hreport]
    | lkTtemp => rfl
    | noteBeep => rfl
    | _ => cases hd

/-- Settles O3: one byte is a command byte, and any other string that is accepted is a row's. -/
theorem acceptedBytesAreTheEncoding : Obligations.AcceptedBytesAreTheEncoding := by
  intro bs i h
  unfold decode at h
  split at h
  · next c =>
    cases h
    exact encode_decodeCommand c
  · exact encode_of_decodeRow h

end Sys2Proof
end

section
/-! The field part of RES as the one place a row writes, the lookup by either value of the table bit, and the payload bits
that an extraction can see. -/

namespace Sys2Proof.Machine

open Claims

/-! ### The frame of a row (R48, R117) -/

theorem State.withFields_sameOutsideResult (s : State) (f : Fields) : SameOutsideResult s (s.withFields f) :=
  ⟨fun _ => rfl, rfl, rfl, rfl, rfl, rfl, rfl⟩

theorem State.withFields_sameHeader (s : State) (f : Fields) : SameHeader s.res (s.withFields f).res :=
  ⟨rfl, rfl, rfl, rfl, rfl, rfl, rfl⟩

/-! ### The looked-up temperature (R135) -/

/-- The lookup by the two valid bits, with table B selected by 1. -/
theorem lookupTemp_eq (sel : Field 4) (tab : Field 1) :
    lookupTemp sel tab =
      if sel.valid = true ∧ tab.valid = true then
        ⟨true, if tab.value = 1 then tempB sel.value.toNat else tempA sel.value.toNat⟩
      else ⟨false, 0⟩ := by
  obtain hbit | hbit := BitVec.eq_zero_or_eq_one tab.value <;> simp [lookupTemp, TempField.none, hbit]

/-! ### The bits an extraction sees (R68, R100) -/

/-- Every descriptor's mask lies within the named bits of its byte. -/
theorem exists_namedBits_of_mem_descRom :
    ∀ d ∈ descRom, ∃ m ∈ namedBits, m.1 = d.off.toNat ∧ m.2 &&& d.mask = d.mask := by decide

/-- Payloads of one length whose byte at the offset agrees under the mask give the same raw value. -/
theorem extract_congr {p q : List Byte} {d : Descriptor} (hlen : p.length = q.length)
    (h : (p[d.off.toNat]?.getD 0) &&& d.mask = (q[d.off.toNat]?.getD 0) &&& d.mask) : extract p d = extract q d := by
  unfold extract
  by_cases hreach : d.off.toNat < p.length
  · have hreach' : d.off.toNat < q.length := hlen ▸ hreach
    simp only [List.getElem?_eq_getElem hreach, List.getElem?_eq_getElem hreach', Option.getD_some] at h ⊢
    rw [h]
  · rw [List.getElem?_eq_none (Nat.not_lt.mp hreach), List.getElem?_eq_none (hlen ▸ Nat.not_lt.mp hreach)]

/-- Two payloads show the table the same bits: one length, and the named bits of every named byte agree. -/
def SameNamedBits (p q : List Byte) : Prop :=
  p.length = q.length ∧ ∀ m ∈ namedBits, (p[m.1]?.getD 0) &&& m.2 = (q[m.1]?.getD 0) &&& m.2

namespace SameNamedBits

variable {p q : List Byte}

theorem extract_eq (h : SameNamedBits p q) {d : Descriptor} (hd : d ∈ descRom) : extract p d = extract q d := by
  obtain ⟨m, hm, hoff, hmask⟩ := exists_namedBits_of_mem_descRom d hd
  have hbits := congrArg (· &&& d.mask) (h.2 m hm)
  simp only [BitVec.and_assoc, hmask, hoff] at hbits
  exact extract_congr h.1 hbits

theorem rawValue_eq (h : SameNamedBits p q) {ds : List Descriptor} (hds : ∀ d ∈ ds, d ∈ descRom) :
    rawValue p ds = rawValue q ds := by
  induction ds with
  | nil => rfl
  | cons d ds ih =>
    obtain ⟨hd, hds⟩ := List.forall_mem_cons.mp hds
    rw [rawValue, rawValue, h.extract_eq hd, ih hds]

/-- A row of the descriptor ROM reads named bits only. -/
theorem fieldOp_eq (h : SameNamedBits p q) {w : Nat} {d : Descriptor} {more : List Descriptor}
    (hd : ∀ e ∈ d :: more, e ∈ descRom) : fieldOp w d more p = fieldOp w d more q := by
  rw [fieldOp, fieldOp, h.rawValue_eq hd]

end SameNamedBits

end Sys2Proof.Machine
end

section
/-! The statements about the rows on their own (41_field_extraction.md, 42_lookup_interpretation.md), the bits that no row
reads, and the reset state (10_state.md). -/

namespace Sys2Proof.Machine

open Claims

/-! ### Each row's entry from the frame bytes of the payload that RES describes -/

/-- Settles O21: three rows name bits of payload byte 4, and the mode adds the `known` bit. -/
theorem rowsOfByteFourComplete : Obligations.RowsOfByteFourComplete := by
  intro s b plen
  have hpower : fieldPower s.payload = entry plen 4 (bit b 7) :=
    fieldOp_bit_fbSlice s plen (d := descPower) (by decide)
  have hsleep : fieldSleep s.payload = entry plen 4 (bit b 3) :=
    fieldOp_bit_fbSlice s plen (d := descSleep) (by decide)
  have hfan2 : fieldFan2 s.payload = entry plen 4 (b.extractLsb' 0 2) :=
    fieldOp_bits_fbSlice s plen (d := descFan2) (by decide)
  have hmode : fieldMode s.payload = modeEntry plen b := fieldMode_fbSlice s plen
  rw [← hpower, ← hsleep, ← hfan2, ← hmode]
  exact ⟨rfl, rfl, rfl, rfl⟩

/-- Settles O22: three rows name one bit of payload byte 6, and either plasma row computes the whole field. -/
theorem rowsOfByteSixComplete : Obligations.RowsOfByteSixComplete := by
  intro s b plen
  have hturbo : fieldTurbo s.payload = entry plen 6 (bit b 0) :=
    fieldOp_bit_fbSlice s plen (d := descTurbo) (by decide)
  have hdon : fieldDon s.payload = entry plen 6 (bit b 1) :=
    fieldOp_bit_fbSlice s plen (d := descDon) (by decide)
  have hxfan : fieldXfan s.payload = entry plen 6 (bit b 3) :=
    fieldOp_bit_fbSlice s plen (d := descXfan) (by decide)
  have hplasma : fieldPlasma s.payload = entry plen 6 (bit b 2 ||| bit (s.fbByte 4) 2) :=
    fieldPlasma_fbSlice s plen
  rw [← hturbo, ← hdon, ← hxfan, ← hplasma]
  exact ⟨rfl, rfl, rfl, rfl, rfl⟩

/-- Settles O23: each row names one bit, or adjacent bits, of its payload byte. -/
theorem rowsOfBytesFiveToNineComplete : Obligations.RowsOfBytesFiveToNineComplete := by
  intro s plen
  have htsel : fieldTsel s.payload = entry plen 5 ((s.fbByte 9).extractLsb' 4 4) :=
    fieldOp_bits_fbSlice s plen (d := descTsel) (by decide)
  have httab : fieldTtab s.payload = entry plen 7 (bit (s.fbByte 11) 6) :=
    fieldOp_bit_fbSlice s plen (d := descTtab) (by decide)
  have hdunitf : fieldDunitf s.payload = entry plen 7 (bit (s.fbByte 11) 7) :=
    fieldOp_bit_fbSlice s plen (d := descDunitf) (by decide)
  have hvswing : fieldVswing s.payload = entry plen 8 ((s.fbByte 12).extractLsb' 4 4) :=
    fieldOp_bits_fbSlice s plen (d := descVswing) (by decide)
  have hhswing : fieldHswing s.payload = entry plen 8 ((s.fbByte 12).extractLsb' 0 3) :=
    fieldOp_bits_fbSlice s plen (d := descHswing) (by decide)
  have hdmode : fieldDmode s.payload = entry plen 9 ((s.fbByte 13).extractLsb' 4 2) :=
    fieldOp_bits_fbSlice s plen (d := descDmode) (by decide)
  rw [← htsel, ← httab, ← hdunitf, ← hvswing, ← hhswing, ← hdmode]
  exact ⟨rfl, rfl, rfl, rfl, rfl, rfl⟩

/-- Settles O24: each row names one bit, or adjacent bits, of its payload byte. -/
theorem rowsOfHighBytesComplete : Obligations.RowsOfHighBytesComplete := by
  intro s plen
  have hsave : fieldSave s.payload = entry plen 11 (bit (s.fbByte 15) 6) :=
    fieldOp_bit_fbSlice s plen (d := descSave) (by decide)
  have hquiet : fieldQuiet s.payload = entry plen 16 (bit (s.fbByte 20) 3) :=
    fieldOp_bit_fbSlice s plen (d := descQuiet) (by decide)
  have hfan : fieldFan s.payload = entry plen 18 ((s.fbByte 22).extractLsb' 0 4) :=
    fieldOp_bits_fbSlice s plen (d := descFan) (by decide)
  have hbeep : fieldBeep s.payload = entry plen 40 (bit (s.fbByte 44) 0) :=
    fieldOp_bit_fbSlice s plen (d := descBeep) (by decide)
  rw [← hsave, ← hquiet, ← hfan, ← hbeep]
  exact ⟨rfl, rfl, rfl, rfl⟩

/-- Settles O25: the entry is the interpreted byte 46 of the frame, and the subtraction does not wrap. -/
theorem indoorTempRowCompletes : Obligations.IndoorTempRowCompletes := by
  intro s
  have hitemp : fieldItemp s.payload = entry s.res.payloadLen.toNat 42 (interpret .sub16 (s.fbByte 46)) :=
    fieldItemp_fbSlice s _
  refine ⟨fieldItemp s.payload, rfl, fun hlong => ?_, fun hshort => ?_⟩
  · rw [hitemp, entry, if_pos hlong]
    exact ⟨rfl, interpret_sub16_toInt _⟩
  · rw [hitemp, entry, if_neg (Nat.not_lt.mpr hshort)]

/-! ### The lookup, the note, and the frame of every row -/

/-- Settles O26: the lookup reads its two entries of RES, and the note the direction bit. -/
theorem lookupAndNoteComplete : Obligations.LookupAndNoteComplete := by
  intro s
  rw [← lookupTemp_eq]
  exact ⟨rfl, rfl⟩

/-- Settles O27: a row that answers has updated the field part of RES only. -/
theorem fieldOperationsWriteOnlyEntries : Obligations.FieldOperationsWriteOnlyEntries := by
  intro i s t hformat hexec
  obtain ⟨f, hnext⟩ := exec_row_next hformat s
  rw [hnext] at hexec
  cases hexec
  exact ⟨s.withFields_sameOutsideResult f, s.withFields_sameHeader f, rfl⟩

/-! ### The bits no row reads -/

/-- Settles O39: every entry is a row's, read through masks within the named bits, or is looked up from such entries, or
is the note, which reads no payload. -/
theorem unnamedPayloadBitsAreIgnored : Obligations.UnnamedPayloadBitsAreIgnored := by
  intro p q dir hlen hbits
  have hsame : SameNamedBits p q := ⟨hlen, hbits⟩
  have hrow {w : Nat} {d : Descriptor} {more : List Descriptor} (hd : ∀ e ∈ d :: more, e ∈ descRom) :
      fieldOp w d more p = fieldOp w d more q := hsame.fieldOp_eq hd
  simp (disch := decide) only [decodePayload, fieldPower, fieldMode, fieldTsel, fieldTtab, fieldFan, fieldFan2,
    fieldQuiet, fieldTurbo, fieldVswing, fieldHswing, fieldDmode, fieldDon, fieldDunitf, fieldPlasma, fieldSleep,
    fieldXfan, fieldSave, fieldBeep, fieldItemp, hrow]

/-! ### The reset state -/

/-- Settles O47: nothing is loaded, `N` is 0 and RES is all 0, with RES_VALID clear. -/
theorem resetMeetsTheInvariant : Obligations.ResetMeetsTheInvariant where
  memoryCanonical := reset_memory_wf
  lengthLegal := Nat.zero_le _
  candidateLoaded _ ha := absurd ha (Nat.not_lt_zero _)
  entriesCanonical := rfl
  errorIsBare _ := rfl
  resultDescribesCandidate hvalid := absurd hvalid Bool.false_ne_true

end Sys2Proof.Machine
end
